-- ==== Sys2Proof/Word.lean ====
section
/-! DEFINITION. The word types of MMCODEC (`00_scope.md` R13, R14): unsigned integers of 8, 16 and 32 bits
and byte strings. -/

namespace Sys2Proof

/-- `u8`: the unit of every interface (R51). -/
abbrev Byte := BitVec 8

/-- `u16`: the checksum register and the checksum (R21). -/
abbrev Half := BitVec 16

/-- `u32`: a client id, a salt (R22, R120). -/
abbrev Word := BitVec 32

/-- `bytes`: a finite sequence of bytes, indexed from 0 (R14). -/
abbrev Bytes := List Byte

end Sys2Proof
end

