-- ==== Sys2Proof/Config.lean ====
section
/-! DEFINITION. The implementation parameters of MMCODEC (`00_scope.md` R5 to R12) and the model's free values. -/

namespace Sys2Proof.Config

/-- `CRC_POLY` (R5). -/
abbrev crcPoly : Half := 0x1021

/-- `CRC_INIT` (R5). -/
abbrev crcInit : Half := 0xFFFF

/-- `MAGIC_ID`, the salt of the pairing request (R6). -/
abbrev magicId : Word := 0x54D2EE63

/-- `CHUNK_SIZE` (R7): the value this hardware fixes. The chunker itself is written for any size. -/
abbrev chunkSize : Nat := 20

/-- `NAME_LEN` (R8). -/
abbrev nameLen : Nat := 20

/-- `NAME_PAD` (R8). -/
abbrev namePad : Byte := 0x00

/-- `SLOT_MARKER_BASE` (R9). -/
abbrev slotMarkerBase : Byte := 0x40

/-- `OUTLET_ON` (R10). -/
abbrev outletOn : Byte := 0x64

/-- `OUTLET_OFF` (R10). -/
abbrev outletOff : Byte := 0x00

/-- `TIMER_RUNNING` (R10). -/
abbrev timerRunning : Byte := 1

/-- `TIMER_PAUSED` (R10). -/
abbrev timerPaused : Byte := 3

/-- `CONTROL_CONST` (R10). -/
abbrev controlConst : Byte := 0x01

/-- `BUF_CAP` (R11, R25): the bytes of storage of the reassembly buffer, addressed from 0. -/
abbrev bufCap : Nat := 254

/-- `SLOT_LIMIT` (R12): slot operands `0 .. 15` are the admitted ones (R93). -/
abbrev slotLimit : Nat := 16

/-- `FRAG_MAX` at its default, unbounded (R12, D17). It is an argument of whatever speaks of the transport's bound
(`transportAdmits`); no rule of the reassembler checks it. -/
abbrev fragMax : Option Nat := none

/-- The identifier of a GATT characteristic, opaque to the block (R12, D25; log entry 11): all that can be said of two
of them is whether they are equal. -/
structure CharacteristicId where
  token : Nat
  deriving DecidableEq, Repr, Inhabited

/-- `WRITE_CHAR` (R12, D25), an open parameter without a value (N6): the characteristic behind `TX`. -/
opaque writeChar : CharacteristicId

/-- `NOTIFY_CHAR` (R12, D25), an open parameter without a value (N6): the characteristic behind `RX`. -/
opaque notifyChar : CharacteristicId

/-- FREE VALUE (R39; log entry 1): the launch parameter `INIT_CLIENT_ID` that the reset state is launched with. The
source gives identity no default (N17), so nothing is known of it. -/
opaque initClientId : Word

/-- FREE VALUE (R39; log entry 1): the launch parameter `INIT_CLIENT_SLOT` that the reset state is launched with. -/
opaque initClientSlot : Byte

/-- FREE VALUE, outside the block (R230; log entry 14): whether `round` takes the upper neighbour of an exact
half `n + 1/2`. The source does not state the tie rule. -/
opaque roundTieUp : Int → Bool

/-- FREE VALUE, outside the block (R235; log entry 15): the status byte the source calls the success constant. -/
opaque statusSuccess : Byte

/-- FREE VALUE, outside the block (R235; log entry 15): the status byte the source calls the failure constant. -/
opaque statusFailure : Byte

end Sys2Proof.Config
end

