-- ==== Sys2Proof/Syntax.lean ====
section
/-! DEFINITION. The operations of MMCODEC: one constructor per row of `spec/opcode_table.json` (R92, R99, R101). -/

namespace Sys2Proof

/-- The eighteen operations. The thirteen requests and the three host operations arrive on the `HOST` port as tagged
values (R62); the two fragment operations are one transport action, a fragment delivered on `RX`, which `RX_STATE`
reads as the one or the other (R90, R191). -/
inductive Instr where
  /-- R144 -/
  | queryClientSlots
  /-- R145: the client slot asked about -/
  | queryClientDetails (n : Byte)
  /-- R146 -/
  | queryDeviceSettings
  /-- R147 -/
  | queryDeviceState
  /-- R148 -/
  | queryNickname
  /-- R149 -/
  | queryOutletSettings
  /-- R150: the preset slot asked about -/
  | queryPresetDetails (n : Byte)
  /-- R151 -/
  | queryPresetSlots
  /-- R152 -/
  | queryTechnicalInfo
  /-- R153: the proposed client id and the UTF-8 bytes of the name -/
  | pairClient (newId : Word) (name : Bytes)
  /-- R154: the client slot to unpair -/
  | unpairClient (n : Byte)
  /-- R155: the on-wire temperature byte and the two outlets requested on -/
  | controlOutlets (tempByte : Byte) (outlet1 outlet2 : Bool)
  /-- R156: the preset slot to start -/
  | startPreset (n : Byte)
  /-- R192 to R198: a fragment delivered while Idle, whole -/
  | firstFragment (f : Bytes)
  /-- R199 to R202: a fragment delivered while Accumulating, whole -/
  | continuationFragment (f : Bytes)
  /-- R157 -/
  | setClientId (v : Word)
  /-- R158 -/
  | setClientSlot (v : Byte)
  /-- R203 -/
  | rxReset
  deriving DecidableEq, Repr

/-- The two states of the reassembler, a derived flag (R29). -/
inductive RxState where
  | idle
  | accumulating
  deriving DecidableEq, Repr

namespace Instr

/-- The mnemonic of the operation's row in `spec/opcode_table.json` (R99). -/
def mnemonic : Instr → String
  | .queryClientSlots => "QUERY_CLIENT_SLOTS"
  | .queryClientDetails _ => "QUERY_CLIENT_DETAILS"
  | .queryDeviceSettings => "QUERY_DEVICE_SETTINGS"
  | .queryDeviceState => "QUERY_DEVICE_STATE"
  | .queryNickname => "QUERY_NICKNAME"
  | .queryOutletSettings => "QUERY_OUTLET_SETTINGS"
  | .queryPresetDetails _ => "QUERY_PRESET_DETAILS"
  | .queryPresetSlots => "QUERY_PRESET_SLOTS"
  | .queryTechnicalInfo => "QUERY_TECHNICAL_INFO"
  | .pairClient _ _ => "PAIR_CLIENT"
  | .unpairClient _ => "UNPAIR_CLIENT"
  | .controlOutlets _ _ _ => "CONTROL_OUTLETS"
  | .startPreset _ => "START_PRESET"
  | .firstFragment _ => "FIRST_FRAGMENT"
  | .continuationFragment _ => "CONTINUATION_FRAGMENT"
  | .setClientId _ => "SET_CLIENT_ID"
  | .setClientSlot _ => "SET_CLIENT_SLOT"
  | .rxReset => "RX_RESET"

/-- The thirteen requests of the catalog (R92), the operations of the Frame Encoder that build a frame. -/
def isRequest : Instr → Bool
  | .queryClientSlots | .queryClientDetails _ | .queryDeviceSettings | .queryDeviceState
  | .queryNickname | .queryOutletSettings | .queryPresetDetails _ | .queryPresetSlots
  | .queryTechnicalInfo | .pairClient _ _ | .unpairClient _ | .controlOutlets _ _ _
  | .startPreset _ => true
  | .firstFragment _ | .continuationFragment _ | .setClientId _ | .setClientSlot _ | .rxReset => false

/-- The two readings of the transport's fragment delivery (R191). -/
def isFragment : Instr → Bool
  | .firstFragment _ | .continuationFragment _ => true
  | .queryClientSlots | .queryClientDetails _ | .queryDeviceSettings | .queryDeviceState
  | .queryNickname | .queryOutletSettings | .queryPresetDetails _ | .queryPresetSlots
  | .queryTechnicalInfo | .pairClient _ _ | .unpairClient _ | .controlOutlets _ _ _
  | .startPreset _ | .setClientId _ | .setClientSlot _ | .rxReset => false

/-- What the `HOST` port carries: request commands, the two identity writes, `RX_RESET` (R62). -/
def isHostCommand (i : Instr) : Bool := !i.isFragment

/-- The one request that reads neither identity register (R153, R161). -/
def isPairing : Instr → Bool
  | .pairClient _ _ => true
  | .queryClientSlots | .queryClientDetails _ | .queryDeviceSettings | .queryDeviceState
  | .queryNickname | .queryOutletSettings | .queryPresetDetails _ | .queryPresetSlots
  | .queryTechnicalInfo | .unpairClient _ | .controlOutlets _ _ _
  | .startPreset _ | .firstFragment _ | .continuationFragment _ | .setClientId _ | .setClientSlot _
  | .rxReset => false

end Instr

end Sys2Proof
end

