-- ==== Sys2Proof/WellFormed.lean ====
section
/-! DEFINITION. The named well-formedness checks of an operation (R93; `92_eei_decisions.md` D7,
`93_implementation_defined.md` U4). -/

namespace Sys2Proof

/-- Why an operation is not well-formed. -/
inductive IllFormed where
  /-- The slot operand `N` of `QUERY_CLIENT_DETAILS`, `QUERY_PRESET_DETAILS`, `UNPAIR_CLIENT` or `START_PRESET` is
  outside the admitted range `0 .. 15` (R93). -/
  | slotNotAdmitted (n : Byte)
  deriving DecidableEq, Repr

/-- The admitted range of a slot operand, `0 <= N < SLOT_LIMIT` (R12, R93). -/
def checkSlot (n : Byte) : Option IllFormed :=
  if n.toNat < Config.slotLimit then none else some (.slotNotAdmitted n)

/-- The check of a whole operation: its first ground for refusal, if any. A name longer than 20 bytes is no such
ground: the hardware answers it with `INVALID_ARGUMENT` (R159). -/
def Instr.illFormed : Instr → Option IllFormed
  | .queryClientDetails n => checkSlot n
  | .queryPresetDetails n => checkSlot n
  | .unpairClient n => checkSlot n
  | .startPreset n => checkSlot n
  | .queryClientSlots | .queryDeviceSettings | .queryDeviceState
  | .queryNickname | .queryOutletSettings | .queryPresetSlots
  | .queryTechnicalInfo | .pairClient _ _ | .controlOutlets _ _ _
  | .firstFragment _ | .continuationFragment _ | .setClientId _ | .setClientSlot _ | .rxReset => none

/-- An operation is well-formed when no check refuses it. -/
abbrev Instr.WellFormed (i : Instr) : Prop := i.illFormed = none

end Sys2Proof
end

