-- ==== Sys2Proof/Decode.lean ====
section
/-! DEFINITION. Reading an operation from its bytes and writing it as bytes. The encoding of a request is its outbound
frame (R81, R92, R101); a fragment is classified by `RX_STATE` alone (R90, R191); the host operations have no encoding
(R62, R101). -/

namespace Sys2Proof

/-- Why a byte string is the frame of no request. -/
inductive DecodeError where
  /-- shorter than destination, opcode and length byte (R81) -/
  | noHeader
  /-- the length is not `frame[2] + 5` (R102) -/
  | wrongLength
  /-- the opcode is none of the ten (R83) -/
  | unknownOpcode (opcode : Byte)
  /-- no row of the catalog with this opcode has these argument bytes (R92) -/
  | wrongArguments (opcode : Byte)
  /-- the pairing frame carries destination slot `0` (R82) -/
  | pairingDestination (dest : Byte)
  deriving DecidableEq, Repr

/-! ### Reading a frame -/

/-- A name field without its padding: the trailing `NAME_PAD` bytes are dropped (R94; DESIGN CHOICE, log entry 8). -/
def stripPad : Bytes → Bytes
  | [] => []
  | b :: bs =>
    match stripPad bs with
    | [] => if b = Config.namePad then [] else [b]
    | c :: cs => b :: c :: cs

/-- An outlet byte that a request can carry: on or off (R95). -/
def decodeOutlet (b : Byte) : Option Bool :=
  if b = Config.outletOn then some true
  else if b = Config.outletOff then some false
  else none

/-- Opcode `0x6B`: rows 1 and 2 (R92). -/
def decodeClientQuery : Bytes → Option Instr
  | [a] =>
    if a = 0x00 then some .queryClientSlots
    else if 0x10 ≤ a.toNat ∧ a.toNat ≤ 0x1F then some (.queryClientDetails (a - 0x10))
    else none
  | _ => none

/-- Opcode `0x30`: rows 7 and 8 (R92). -/
def decodePresetQuery : Bytes → Option Instr
  | [a] =>
    if a = 0x80 then some .queryPresetSlots
    else if 0x40 ≤ a.toNat ∧ a.toNat ≤ 0x4F then some (.queryPresetDetails (a - 0x40))
    else none
  | _ => none

/-- Opcode `0x87`: row 12; the timer mode follows from the outlets (R95). -/
def decodeControl : Bytes → Option Instr
  | [timer, const, temp, b1, b2] =>
    match decodeOutlet b1, decodeOutlet b2 with
    | some o1, some o2 =>
      if const = Config.controlConst ∧ timer = (if o1 || o2 then Config.timerRunning else Config.timerPaused) then
        some (.controlOutlets temp o1 o2)
      else none
    | _, _ => none
  | _ => none

/-- An opcode without arguments. -/
def decodeBare (i : Instr) : Bytes → Option Instr
  | [] => some i
  | _ :: _ => none

/-- Opcode `0xEB`: row 10 with 24 argument bytes and destination `0`, row 11 with one (R92, R94). -/
def decodePairing (dest : Byte) : Bytes → Except DecodeError Instr
  | [n] => .ok (.unpairClient n)
  | i3 :: i2 :: i1 :: i0 :: name =>
    if name.length ≠ Config.nameLen then .error (.wrongArguments 0xEB)
    else if dest ≠ 0x00 then .error (.pairingDestination dest)
    else .ok (.pairClient (i3 ++ i2 ++ i1 ++ i0) (stripPad name))
  | _ => .error (.wrongArguments 0xEB)

/-- The request whose frame has this opcode and these argument bytes (R92). -/
def decodeArgs (dest opcode : Byte) (args : Bytes) : Except DecodeError Instr :=
  let named (r : Option Instr) : Except DecodeError Instr :=
    match r with
    | some i => .ok i
    | none => .error (.wrongArguments opcode)
  if opcode = 0x6B then named (decodeClientQuery args)
  else if opcode = 0x3E then named (decodeBare .queryDeviceSettings args)
  else if opcode = 0x07 then named (decodeBare .queryDeviceState args)
  else if opcode = 0x44 then named (decodeBare .queryNickname args)
  else if opcode = 0x10 then named (decodeBare .queryOutletSettings args)
  else if opcode = 0x30 then named (decodePresetQuery args)
  else if opcode = 0x32 then named (if args = [0x01] then some .queryTechnicalInfo else none)
  else if opcode = 0xEB then decodePairing dest args
  else if opcode = 0x87 then named (decodeControl args)
  else if opcode = 0xB1 then
    match args with
    | [n] => .ok (.startPreset n)
    | _ => .error (.wrongArguments opcode)
  else .error (.unknownOpcode opcode)

/-- The request a frame stands for. The destination byte of the twelve authenticated requests and the two check bytes
are the block's own doing, not operands, and are not looked at (R101: their mask bytes are `00`). -/
def decodeFrame : Bytes → Except DecodeError Instr
  | dest :: opcode :: alen :: rest =>
    if rest.length = alen.toNat + 2 then decodeArgs dest opcode (rest.take alen.toNat)
    else .error .wrongLength
  | _ => .error .noHeader

/-- Step selection of the reassembler: a delivered fragment is a first fragment when Idle and a continuation when
Accumulating, whatever its bytes (R90, R191). -/
def decodeFragment (rx : RxState) (f : Bytes) : Instr :=
  match rx with
  | .idle => .firstFragment f
  | .accumulating => .continuationFragment f

/-! ### Writing a frame -/

/-- Opcode and argument bytes of each request, row by row of the catalog (R92 to R95); none for the operations that
have no frame, and for a name that does not fit its field. -/
def encodeArgs : Instr → Option (Byte × Bytes)
  | .queryClientSlots => some (0x6B, [0x00])
  | .queryClientDetails n => some (0x6B, [0x10 + n])
  | .queryDeviceSettings => some (0x3E, [])
  | .queryDeviceState => some (0x07, [])
  | .queryNickname => some (0x44, [])
  | .queryOutletSettings => some (0x10, [])
  | .queryPresetDetails n => some (0x30, [0x40 + n])
  | .queryPresetSlots => some (0x30, [0x80])
  | .queryTechnicalInfo => some (0x32, [0x01])
  | .pairClient v name =>
    if name.length ≤ 20 then
      some (0xEB, [v.extractLsb' 24 8, v.extractLsb' 16 8, v.extractLsb' 8 8, v.extractLsb' 0 8]
        ++ name ++ List.replicate (20 - name.length) 0x00)
    else none
  | .unpairClient n => some (0xEB, [n])
  | .controlOutlets t o1 o2 =>
    some (0x87, [if o1 || o2 then 1 else 3, 0x01, t, if o1 then 0x64 else 0x00, if o2 then 0x64 else 0x00])
  | .startPreset n => some (0xB1, [n])
  | .firstFragment _ | .continuationFragment _ | .setClientId _ | .setClientSlot _ | .rxReset => none

/-- Byte 0 of the frame: `0x00` for the pairing request, the destination slot for every other (R82). -/
def encodeDest (dest : Byte) (i : Instr) : Byte :=
  if i.isPairing then 0x00 else dest

/-- The bytes of an operation: for a request its frame, with the given destination slot and check value (R81, R86); for
a fragment operation the fragment itself (R89, R90); none where there is no encoding (R101). -/
def encode (dest : Byte) (check : Half) (i : Instr) : Option Bytes :=
  match i with
  | .firstFragment f => some f
  | .continuationFragment f => some f
  | i =>
    match encodeArgs i with
    | some (opcode, args) =>
      some ([encodeDest dest i, opcode, BitVec.ofNat 8 args.length] ++ args
        ++ [check.extractLsb' 8 8, check.extractLsb' 0 8])
    | none => none

/-- Encoding determines the name operand: it does not end in the pad byte (R94; log entry 8). Every other operand is
determined by its bytes. -/
def Instr.nameUnpadded : Instr → Bool
  | .pairClient _ name => stripPad name = name
  | .queryClientSlots | .queryClientDetails _ | .queryDeviceSettings | .queryDeviceState
  | .queryNickname | .queryOutletSettings | .queryPresetDetails _ | .queryPresetSlots
  | .queryTechnicalInfo | .unpairClient _ | .controlOutlets _ _ _ | .startPreset _
  | .firstFragment _ | .continuationFragment _ | .setClientId _ | .setClientSlot _ | .rxReset => true

/-! ### The machine-readable table (R101) -/

/-- A request row of `spec/opcode_table.json`: `match` and `mask` over `frame[0:4]`, byte 0 leftmost. -/
structure FrameRow where
  mnemonic : String
  pattern : Word
  mask : Word
  length : Nat
  deriving DecidableEq, Repr

/-- The thirteen request rows, as the table has them. -/
def frameRows : List FrameRow :=
  [ ⟨"QUERY_CLIENT_SLOTS", 0x006B0100, 0x00FFFFFF, 6⟩,
    ⟨"QUERY_CLIENT_DETAILS", 0x006B0110, 0x00FFFFF0, 6⟩,
    ⟨"QUERY_DEVICE_SETTINGS", 0x003E0000, 0x00FFFF00, 5⟩,
    ⟨"QUERY_DEVICE_STATE", 0x00070000, 0x00FFFF00, 5⟩,
    ⟨"QUERY_NICKNAME", 0x00440000, 0x00FFFF00, 5⟩,
    ⟨"QUERY_OUTLET_SETTINGS", 0x00100000, 0x00FFFF00, 5⟩,
    ⟨"QUERY_PRESET_DETAILS", 0x00300140, 0x00FFFFF0, 6⟩,
    ⟨"QUERY_PRESET_SLOTS", 0x00300180, 0x00FFFFFF, 6⟩,
    ⟨"QUERY_TECHNICAL_INFO", 0x00320101, 0x00FFFFFF, 6⟩,
    ⟨"PAIR_CLIENT", 0x00EB1800, 0xFFFFFF00, 29⟩,
    ⟨"UNPAIR_CLIENT", 0x00EB0100, 0x00FFFF00, 6⟩,
    ⟨"CONTROL_OUTLETS", 0x00870501, 0x00FFFFFD, 10⟩,
    ⟨"START_PRESET", 0x00B10100, 0x00FFFF00, 6⟩ ]

/-- A frame belongs to a row when `(f[0:4] and mask) = match` and `len(f) = length` (R101). -/
def FrameRow.admits (r : FrameRow) (f : Bytes) : Bool :=
  match f with
  | b0 :: b1 :: b2 :: b3 :: _ => (b0 ++ b1 ++ b2 ++ b3) &&& r.mask = r.pattern ∧ f.length = r.length
  | _ => false

/-! ### The host's numbering of a frame's bits -/

/-- Byte `k` of a frame whose bits are numbered from the least significant bit of its first byte. -/
def wordByte (w k : Nat) : Byte := BitVec.ofNat 8 (w >>> (8 * k))

/-- The frame whose first `nbits` bits are those of `w` and whose bits above are 0, as long as the row is and at least
as long as its own length byte says (R102). -/
def tableBytes (nbits w : Nat) : Bytes :=
  let v := w % 2 ^ nbits
  (List.range (max (nbits / 8) ((wordByte v 2).toNat + 5))).map (wordByte v)

/-- The instruction the decoder reads from a frame given as a number. -/
def decodeTableWord (nbits w : Nat) : Option Instr :=
  (decodeFrame (tableBytes nbits w)).toOption

end Sys2Proof
end

