-- ==== Sys2Proof/Machine/State.lean ====
section
/-! DEFINITION. The state of MMCODEC (R20), what crosses its five ports (R58 to R62), and the reasons a step stops. -/

namespace Sys2Proof.Machine

/-- The reassembly buffer as the bytes written so far, by address: addresses strictly rising; an unlisted address
holds no value (R25, R50; log entry 4). -/
abbrev Memory := List Host.Cell

/-- The two identity registers (R22, R23). -/
inductive IdentityRegister where
  | clientId
  | clientSlot
  deriving DecidableEq, Repr

/-- The two registers that are meaningful only while a notification is in flight (R27, R28). -/
inductive PendingRegister where
  | pendSlot
  | expLen
  deriving DecidableEq, Repr

/-- What a raised error or diagnostic records (R260 codes 1 to 3). -/
inductive Cause where
  /-- code 1, reason `NAME_TOO_LONG`, with the name's length in bytes (R261) -/
  | nameTooLong (length : Nat)
  /-- code 2, with the fragment's length (R262) -/
  | shortFragment (length : Nat)
  /-- code 3, with the expected and the received payload length (R263) -/
  | lengthMismatch (expected received : Nat)
  deriving DecidableEq, Repr

/-- What the block presents on its ports. -/
inductive Output where
  /-- `TX`: a chunk of an outbound frame (R58) -/
  | tx (chunk : Bytes)
  /-- `DISPATCH`: a completed notification (R60) -/
  | dispatch (slot : Byte) (payload : Bytes)
  /-- `DIAG`: a diagnostic of the reassembler (R61) -/
  | diag (cause : Cause)
  /-- `HOST`: the result `OK` of a request command (R62) -/
  | ok
  /-- `HOST`: the result `INVALID_ARGUMENT` of a request command (R62) -/
  | invalidArgument (cause : Cause)
  deriving DecidableEq, Repr

/-- What arrives at the block's ports, one item an operation (R17, R62, R99). -/
inductive Input where
  /-- `HOST`: a command, a tagged value -/
  | host (i : Instr)
  /-- `RX`: the transport action `FRAG`, a delivered fragment (R59) -/
  | frag (f : Bytes)
  /-- `HOST`: a request command written down as its catalog frame (log entry 6) -/
  | encoded (frame : Bytes)
  deriving DecidableEq, Repr

/-- The five ports (R58 to R62). -/
inductive Port where
  | host
  | tx
  | rx
  | dispatch
  | diag
  deriving DecidableEq, Repr

/-- Faults: the machine stops. -/
inductive Fault where
  /-- `UNWRITTEN_IDENTITY` (R41, R260 code 7). Raised by every request but `PAIR_CLIENT` while an identity register has
  been given no value, neither at launch nor by a write since; it names all registers without a value (log entry 1).
  Never raised in a run from `State.reset`. Safe: nothing can be proved past it. -/
  | unwrittenIdentity (regs : List IdentityRegister)
  /-- Raised by a continuation fragment that reads `PEND_SLOT` or `EXP_LEN` while the register is absent although the
  buffer is not empty (R27, R28: a model must not give it a value). No state of the invariant does so. Safe. -/
  | absentRegister (reg : PendingRegister)
  /-- Raised by an access to the reassembly buffer beyond its 254 bytes (R25, R50). No state of the invariant does so.
  Safe. -/
  | noSuchAddress (addr : Nat)
  /-- Raised by reading a byte of the reassembly buffer that nothing has written (R25: only `BUF[0 : BUF_LEN]` is
  meaningful). No state of the invariant does so. Safe. -/
  | unwrittenByte (addr : Nat)
  deriving DecidableEq, Repr

/-- Refusals: the model gives the input no step. -/
inductive Refusal where
  /-- Answered by an arm of `exec` whose instruction has no meaning yet (no arm at present). Safe. -/
  | notModelled (mnemonic : String)
  /-- Answered by `step` to an operation that a well-formedness check refuses, before anything is emitted (R93). Safe:
  the hardware function of the instruction itself is total. -/
  | illFormed (why : IllFormed)
  /-- Answered by `step` to a fragment operation presented on the `HOST` port, which carries none (R62). Safe. -/
  | notAHostCommand
  /-- Answered by `step` to bytes on the `HOST` port that are the frame of no request (R96). Safe. -/
  | notARequest (why : DecodeError)
  deriving DecidableEq, Repr

/-- The state: the seven elements of R20, then the model's own two ports (log entry 5). -/
@[ext]
structure State where
  /-- `CRC_REG`, the working register of one checksum computation (R21) -/
  crcReg : Half
  /-- `CLIENT_ID`; none is the spec's own "holds no value", of a launch without the parameter (R22, R39) -/
  clientId : Option Word
  /-- `CLIENT_SLOT`; none is the spec's own "holds no value", of a launch without the parameter (R23, R39) -/
  clientSlot : Option Byte
  /-- `BUF` (R25) -/
  buf : Memory
  /-- `BUF_LEN` (R26) -/
  bufLen : Byte
  /-- `PEND_SLOT`; none is the spec's own "absent" (R27) -/
  pendSlot : Option Byte
  /-- `EXP_LEN`; none is the spec's own "absent" (R28) -/
  expLen : Option Byte
  /-- what the host and the transport will do next, in the order the block takes it (R17, R65, R270) -/
  inbox : List Input
  /-- what the block has presented on its output ports, in order (R16, R64) -/
  outbox : List Output
  deriving DecidableEq, Repr

/-- Construction of a Session with the launch parameters `INIT_CLIENT_ID` and `INIT_CLIENT_SLOT`, each given or not
(R39, R300): reassembler Idle with nothing pending (R38), no output (R301). `CRC_REG` is unspecified and 0 here (R40; log
entry 2). -/
def State.launch (initId : Option Word) (initSlot : Option Byte) : State where
  crcReg := 0
  clientId := initId
  clientSlot := initSlot
  buf := []
  bufLen := 0
  pendSlot := none
  expLen := none
  inbox := []
  outbox := []

/-- The machine right after reset, by the first of the two forms R39 offers: launched with both parameters, which are
free values (log entry 1). -/
def State.reset : State := State.launch (some Config.initClientId) (some Config.initClientSlot)

/-- The machine right after reset by the other form of R39: identity unwritten. -/
def State.resetUnwritten : State := State.launch none none

end Sys2Proof.Machine
end

