-- ==== Sys2Proof/Machine/Flags.lean ====
section
/-! DEFINITION. The one flag of the block, `RX_STATE`, derived from `BUF_LEN` (R29), and the numeric codes of the error
and diagnostic causes (R260). -/

namespace Sys2Proof.Machine

/-- `RX_STATE`: Idle when `BUF_LEN = 0`, Accumulating otherwise (R29). -/
def State.rxState (s : State) : RxState :=
  if s.bufLen = 0 then .idle else .accumulating

/-- The code of an error or diagnostic the block raises (R260). -/
def Cause.code : Cause → Nat
  | .nameTooLong _ => 1
  | .shortFragment _ => 2
  | .lengthMismatch _ _ => 3

/-- The code of the model's fault `UNWRITTEN_IDENTITY` (R260); the other faults are the model's own and have none. -/
def Fault.code : Fault → Option Nat
  | .unwrittenIdentity _ => some 7
  | .absentRegister _ | .noSuchAddress _ | .unwrittenByte _ => none

end Sys2Proof.Machine
end

