-- ==== Sys2Proof/Machine/Checksum.lean ====
section
/-! DEFINITION. Byte-order helpers (R14, R52) and the Checksum-16 generator as a function (R120 to R126). -/

namespace Sys2Proof.Machine

/-- `be16`: most significant byte first (R14). -/
def be16 (v : Half) : Bytes := [v.extractLsb' 8 8, v.extractLsb' 0 8]

/-- `be32`: most significant byte first (R14). -/
def be32 (v : Word) : Bytes :=
  [v.extractLsb' 24 8, v.extractLsb' 16 8, v.extractLsb' 8 8, v.extractLsb' 0 8]

/-- `be_u16` of the two bytes `hi`, `lo` (R14). -/
def beU16 (hi lo : Byte) : Nat := hi.toNat * 256 + lo.toNat

/-- `CRC_LOAD` (R122): the register's value at the start of every computation. -/
def crcLoad : Half := Config.crcInit

/-- `CRC_BIT(d)` (R123): the register's next value for one input bit. -/
def crcBit (reg : Half) (d : Bool) : Half :=
  let top := reg.getLsbD 15
  let shifted := reg <<< 1
  if top ^^ d then shifted ^^^ Config.crcPoly else shifted

/-- The bits of a byte in the order the generator consumes them, bit 7 first (R53). -/
def bitsMsbFirst (b : Byte) : List Bool :=
  [b.getLsbD 7, b.getLsbD 6, b.getLsbD 5, b.getLsbD 4, b.getLsbD 3, b.getLsbD 2, b.getLsbD 1, b.getLsbD 0]

/-- `CRC_BYTE(b)` (R124): eight bit steps, most significant bit first. -/
def crcByte (reg : Half) (b : Byte) : Half := (bitsMsbFirst b).foldl crcBit reg

/-- `CRC_CORE(data)` (R124): load, then every byte from index 0 upward; the result is the register as it is (R125). -/
def crcCore (data : Bytes) : Half := data.foldl crcByte crcLoad

/-- `CHECKSUM(payload, salt)` (R120, R121): the payload, then the salt most significant byte first. -/
def checksum (payload : Bytes) (salt : Word) : Half := crcCore (payload ++ be32 salt)

end Sys2Proof.Machine
end

