-- ==== Sys2Proof/Machine/Operands.lean ====
section
/-! DEFINITION. Operand assembly: the argument bytes of each request (R93 to R95) and the fields of a first fragment's
header (R89, R194). -/

namespace Sys2Proof.Machine

/-- The argument byte of `QUERY_CLIENT_DETAILS`: `(0x10 + N) mod 256` (R93). -/
def clientDetailsArg (n : Byte) : Byte := 0x10 + n

/-- The argument byte of `QUERY_PRESET_DETAILS`: `(0x40 + N) mod 256` (R93). -/
def presetDetailsArg (n : Byte) : Byte := 0x40 + n

/-- The name field of `PAIR_CLIENT`: the name padded on the right to 20 bytes (R94). -/
def padName (name : Bytes) : Bytes :=
  name ++ List.replicate (Config.nameLen - name.length) Config.namePad

/-- The arguments of `PAIR_CLIENT` (R94). -/
def pairArgs (newId : Word) (name : Bytes) : Bytes := be32 newId ++ padName name

/-- `timer_mode` of `CONTROL_OUTLETS` (R95). -/
def timerMode (outlet1 outlet2 : Bool) : Byte :=
  if outlet1 || outlet2 then Config.timerRunning else Config.timerPaused

/-- The byte of an outlet requested on or off (R95). -/
def outletByte (on : Bool) : Byte := if on then Config.outletOn else Config.outletOff

/-- The arguments of `CONTROL_OUTLETS` (R95). -/
def controlArgs (tempByte : Byte) (outlet1 outlet2 : Bool) : Bytes :=
  [timerMode outlet1 outlet2, Config.controlConst, tempByte, outletByte outlet1, outletByte outlet2]

/-- `client_slot = (marker - 0x40) mod 256` (R194). -/
def markerSlot (marker : Byte) : Byte := marker - Config.slotMarkerBase

end Sys2Proof.Machine
end

