-- ==== Sys2Proof/Machine/Ops.lean ====
section
/-! DEFINITION. The named operations over the buffer, the registers and the ports that the meanings share. -/

namespace Sys2Proof.Machine

/-! ### The reassembly buffer -/

/-- The canonical form: addresses strictly rising, all inside the 254 bytes (R25, R50). -/
abbrev Memory.wf (m : Memory) : Prop :=
  m.Pairwise (fun x y => x.1 < y.1) ∧ ∀ c ∈ m, c.1 < Config.bufCap

/-- One byte of the buffer; none where nothing has been written. -/
def Memory.read : Memory → Nat → Option Byte
  | [], _ => none
  | (a, b) :: m, k => if k = a then some b else Memory.read m k

/-- Write one byte, keeping the addresses rising. -/
def Memory.write : Memory → Nat → Byte → Memory
  | [], k, v => [(k, v)]
  | (a, b) :: m, k, v =>
    if k < a then (k, v) :: (a, b) :: m
    else if k = a then (k, v) :: m
    else (a, b) :: Memory.write m k v

/-- Write a byte string from an address upward. -/
def Memory.writeBytes : Memory → Nat → Bytes → Memory
  | m, _, [] => m
  | m, a, b :: bs => Memory.writeBytes (Memory.write m a b) (a + 1) bs

/-- Read `n` bytes from an address upward; the first address without a value ends the read. -/
def Memory.readBytes (m : Memory) : Nat → Nat → Except Fault Bytes
  | _, 0 => .ok []
  | a, n + 1 =>
    match m.read a with
    | none => .error (.unwrittenByte a)
    | some b =>
      match Memory.readBytes m (a + 1) n with
      | .ok bs => .ok (b :: bs)
      | .error r => .error r

/-- `MemWrite(addr, n, v)`: set `BUF[addr : addr + n]` (R15). -/
def memWrite (s : State) (addr : Nat) (bs : Bytes) : Except Fault State :=
  if addr + bs.length ≤ Config.bufCap then .ok { s with buf := s.buf.writeBytes addr bs }
  else .error (.noSuchAddress (max addr Config.bufCap))

/-- `MemRead(addr, n)`: `BUF[addr : addr + n]` (R15). -/
def memRead (s : State) (addr n : Nat) : Except Fault Bytes :=
  if addr + n ≤ Config.bufCap then s.buf.readBytes addr n
  else .error (.noSuchAddress (max addr Config.bufCap))

/-! ### Registers -/

/-- `CLIENT_ID <- v` (R157). -/
def State.writeClientId (s : State) (v : Word) : State := { s with clientId := some v }

/-- `CLIENT_SLOT <- v` (R158). -/
def State.writeClientSlot (s : State) (v : Byte) : State := { s with clientSlot := some v }

/-- `BUF_LEN <- m; PEND_SLOT <- slot; EXP_LEN <- exp` (R195). -/
def State.openNotification (s : State) (len : Nat) (slot exp : Byte) : State :=
  { s with bufLen := BitVec.ofNat 8 len, pendSlot := some slot, expLen := some exp }

/-- `BUF_LEN <- a` while a notification stays in flight (R200). -/
def State.extendNotification (s : State) (len : Nat) : State := { s with bufLen := BitVec.ofNat 8 len }

/-- `BUF_LEN <- 0`, with which `PEND_SLOT` and `EXP_LEN` become absent (R27, R28, R201, R203). -/
def State.clearReassembly (s : State) : State := { s with bufLen := 0, pendSlot := none, expLen := none }

/-- Run the checksum generator: `CRC_REG` ends as `CHECKSUM(payload, salt)` (R122 to R125). -/
def State.runChecksum (s : State) (payload : Bytes) (salt : Word) : State :=
  { s with crcReg := checksum payload salt }

/-! ### Ports -/

/-- Present outputs, in order (R16). -/
def State.emit (s : State) (out : List Output) : State := { s with outbox := s.outbox ++ out }

/-- The port an error or diagnostic is reported on: the command's result for `INVALID_ARGUMENT`, `DIAG` for the
reassembler's two (R261 to R263). -/
def Cause.report : Cause → Output
  | .nameTooLong n => .invalidArgument (.nameTooLong n)
  | .shortFragment n => .diag (.shortFragment n)
  | .lengthMismatch e r => .diag (.lengthMismatch e r)

/-- Raising an error or diagnostic: nothing is saved and control goes nowhere; the report is the whole of it (R271).
The block is then ready for the next operation, so there is no operation that returns from it (R272). -/
def State.raise (s : State) (c : Cause) : State := s.emit [c.report]

/-- The port an output is presented on (R58 to R62). -/
def Output.port : Output → Port
  | .tx _ => .tx
  | .dispatch _ _ => .dispatch
  | .diag _ => .diag
  | .ok | .invalidArgument _ => .host

/-- The port an input arrives at (R59, R62). -/
def Input.port : Input → Port
  | .host _ | .encoded _ => .host
  | .frag _ => .rx

/-- The characteristic that labels a port: the write characteristic `TX`, the notify characteristic `RX`, no other port
has one (R12, R58, R59, D25). No rule depends on the label. -/
def Port.characteristic : Port → Option Config.CharacteristicId
  | .tx => some Config.writeChar
  | .rx => some Config.notifyChar
  | .host | .dispatch | .diag => none

/-- Whether the transport may deliver a fragment, for a value of `FRAG_MAX` (R12, R59): a premise on the environment,
which no operation checks. -/
def transportAdmits (fragMax : Option Nat) (f : Bytes) : Bool :=
  match fragMax with
  | none => true
  | some n => f.length ≤ n

/-- The chunks presented on `TX` among some outputs (R58). -/
def txChunks (out : List Output) : List Bytes :=
  out.filterMap fun o => match o with
    | .tx c => some c
    | .dispatch _ _ | .diag _ | .ok | .invalidArgument _ => none

/-- The notifications presented on `DISPATCH` among some outputs (R60). -/
def dispatches (out : List Output) : List (Byte × Bytes) :=
  out.filterMap fun o => match o with
    | .dispatch slot payload => some (slot, payload)
    | .tx _ | .diag _ | .ok | .invalidArgument _ => none

/-- The diagnostics presented on `DIAG` among some outputs (R61). -/
def diagnostics (out : List Output) : List Cause :=
  out.filterMap fun o => match o with
    | .diag c => some c
    | .tx _ | .dispatch _ _ | .ok | .invalidArgument _ => none

/-- The results given on `HOST` among some outputs: `none` for `OK` (R62). -/
def hostResults (out : List Output) : List (Option Cause) :=
  out.filterMap fun o => match o with
    | .ok => some none
    | .invalidArgument c => some (some c)
    | .tx _ | .dispatch _ _ | .diag _ => none

/-! ### The Frame Encoder's shared procedures -/

/-- Chunk `i` of a frame, for chunks of `size` bytes (R88). -/
def chunk (size : Nat) (frame : Bytes) (i : Nat) : Bytes := (frame.drop (size * i)).take size

/-- The chunks of a frame in increasing offset order: `ceil(F / size)` of them (R88, R142). -/
def chunks (size : Nat) (frame : Bytes) : List Bytes :=
  (List.range ((frame.length + size - 1) / size)).map (chunk size frame)

/-- The bytes of a frame before its checksum (R81, R141). -/
def frameFields (dest opcode : Byte) (args : Bytes) : Bytes :=
  [dest, opcode, BitVec.ofNat 8 args.length] ++ args

/-- A complete outbound frame (R81, R86). -/
def frame (dest opcode : Byte) (args : Bytes) (salt : Word) : Bytes :=
  frameFields dest opcode args ++ be16 (checksum (frameFields dest opcode args) salt)

/-- `SEND_CHUNKS(frame)` and the result `OK` (R141 to R143). -/
def State.sendChunks (s : State) (f : Bytes) : State :=
  s.emit ((chunks Config.chunkSize f).map .tx ++ [.ok])

/-- `BUILD_AND_SEND(dest, opcode, args, salt)` (R141): the check bytes are read from `CRC_REG` (R125). -/
def buildAndSend (dest opcode : Byte) (args : Bytes) (salt : Word) (s : State) : State :=
  let fields := frameFields dest opcode args
  let t := s.runChecksum fields salt
  t.sendChunks (fields ++ be16 t.crcReg)

/-- The identity registers that hold no value. -/
def State.unwritten (s : State) : List IdentityRegister :=
  (if s.clientId.isNone then [.clientId] else []) ++ (if s.clientSlot.isNone then [.clientSlot] else [])

/-- A request other than `PAIR_CLIENT`: both identity registers are read once, at the start; where one has never been
written the model faults (R41, R141). -/
def authenticatedRequest (opcode : Byte) (args : Bytes) (s : State) : Host.Outcome State Fault Refusal :=
  match s.clientId, s.clientSlot with
  | some id, some slot => .next (buildAndSend slot opcode args id s)
  | _, _ => .fault (.unwrittenIdentity s.unwritten)

/-! ### Fetching the next operation -/

/-- The operation an input is, in the reassembler's present state (R62, R191). -/
def selectInput (rx : RxState) : Input → Except Refusal Instr
  | .host i => if i.isHostCommand then .ok i else .error .notAHostCommand
  | .frag f => .ok (decodeFragment rx f)
  | .encoded bs =>
    match decodeFrame bs with
    | .ok i => .ok i
    | .error e => .error (.notARequest e)

/-- Take the input that the step has read. -/
def State.takeInput (s : State) (rest : List Input) : State := { s with inbox := rest }

end Sys2Proof.Machine
end

