-- ==== Sys2Proof/Machine/Identity.lean ====
section
/-! DEFINITION. The identity writes of the host (R157, R158): any value is accepted (R24), nothing is output. -/

namespace Sys2Proof.Machine

/-- R157 -/
def execSetClientId (v : Word) (s : State) : Host.Outcome State Fault Refusal := .next (s.writeClientId v)

/-- R158 -/
def execSetClientSlot (v : Byte) (s : State) : Host.Outcome State Fault Refusal := .next (s.writeClientSlot v)

end Sys2Proof.Machine
end

