-- ==== Sys2Proof/Machine/Reassembler.lean ====
section
/-! DEFINITION. The Notification Reassembler: the Idle step, the Accumulating step and the reassembly reset
(R190 to R203). -/

namespace Sys2Proof.Machine

/-- The Idle step on a fragment whose header has been parsed: `slot`, `exp` and the initial payload slice
(R195 to R198). -/
def idleParsed (slot exp : Byte) (init : Bytes) (s : State) : Host.Outcome State Fault Refusal :=
  if init.length < exp.toNat then
    if init.length = 0 then .next s
    else
      match memWrite s 0 init with
      | .ok t => .next (t.openNotification init.length slot exp)
      | .error r => .fault r
  else if init.length = exp.toNat then .next (s.emit [.dispatch slot init])
  else .next (s.raise (.lengthMismatch exp.toNat init.length))

/-- The Idle step (R192 to R198): byte 1 is not read (R97); a fragment without the 3-byte header is dropped. -/
def idleStep (f : Bytes) (s : State) : Host.Outcome State Fault Refusal :=
  match f with
  | marker :: _ :: explen :: init => idleParsed (markerSlot marker) explen init s
  | _ => .next (s.raise (.shortFragment f.length))

/-- Completing a notification: the held prefix and the fragment are dispatched and the state is cleared (R201). -/
def completeNotification (f : Bytes) (s : State) : Host.Outcome State Fault Refusal :=
  match memRead s 0 s.bufLen.toNat, s.pendSlot with
  | .error r, _ => .fault r
  | .ok _, none => .fault (.absentRegister .pendSlot)
  | .ok held, some slot => .next (s.emit [.dispatch slot (held ++ f)]).clearReassembly

/-- The Accumulating step (R199 to R202): lengths are compared as natural numbers (R212). -/
def accumulatingStep (f : Bytes) (s : State) : Host.Outcome State Fault Refusal :=
  let a := s.bufLen.toNat + f.length
  match s.expLen with
  | none => .fault (.absentRegister .expLen)
  | some exp =>
    if a < exp.toNat then
      match memWrite s s.bufLen.toNat f with
      | .ok t => .next (t.extendNotification a)
      | .error r => .fault r
    else if a = exp.toNat then completeNotification f s
    else .next (s.raise (.lengthMismatch exp.toNat a)).clearReassembly

/-- A fragment delivered on `RX`: `RX_STATE` alone selects the step (R191). -/
def fragmentStep (f : Bytes) (s : State) : Host.Outcome State Fault Refusal :=
  match s.rxState with
  | .idle => idleStep f s
  | .accumulating => accumulatingStep f s

/-- R192 to R198. The transport's one action is delivering the fragment, and `RX_STATE` says how it is read (R191), so
the meaning is total: in the Accumulating state the fragment is a continuation (log entry 7). -/
def execFirstFragment (f : Bytes) (s : State) : Host.Outcome State Fault Refusal := fragmentStep f s

/-- R199 to R202; in the Idle state the fragment is a first fragment (R191; log entry 7). -/
def execContinuationFragment (f : Bytes) (s : State) : Host.Outcome State Fault Refusal := fragmentStep f s

/-- R203: any partial payload is discarded; no output. -/
def execRxReset (s : State) : Host.Outcome State Fault Refusal := .next s.clearReassembly

end Sys2Proof.Machine
end

