-- ==== Sys2Proof/Machine/Requests.lean ====
section
/-! DEFINITION. The thirteen requests of the Frame Encoder (R144 to R156). Slot operands wrap modulo 256 here: the
hardware function is total, and it is `step` that refuses an operand outside the admitted range (R93). -/

namespace Sys2Proof.Machine

/-- R144 -/
def execQueryClientSlots (s : State) : Host.Outcome State Fault Refusal :=
  authenticatedRequest 0x6B [0x00] s

/-- R145 -/
def execQueryClientDetails (n : Byte) (s : State) : Host.Outcome State Fault Refusal :=
  authenticatedRequest 0x6B [clientDetailsArg n] s

/-- R146 -/
def execQueryDeviceSettings (s : State) : Host.Outcome State Fault Refusal :=
  authenticatedRequest 0x3E [] s

/-- R147 -/
def execQueryDeviceState (s : State) : Host.Outcome State Fault Refusal :=
  authenticatedRequest 0x07 [] s

/-- R148 -/
def execQueryNickname (s : State) : Host.Outcome State Fault Refusal :=
  authenticatedRequest 0x44 [] s

/-- R149 -/
def execQueryOutletSettings (s : State) : Host.Outcome State Fault Refusal :=
  authenticatedRequest 0x10 [] s

/-- R150 -/
def execQueryPresetDetails (n : Byte) (s : State) : Host.Outcome State Fault Refusal :=
  authenticatedRequest 0x30 [presetDetailsArg n] s

/-- R151 -/
def execQueryPresetSlots (s : State) : Host.Outcome State Fault Refusal :=
  authenticatedRequest 0x30 [0x80] s

/-- R152 -/
def execQueryTechnicalInfo (s : State) : Host.Outcome State Fault Refusal :=
  authenticatedRequest 0x32 [0x01] s

/-- R153: a name longer than 20 bytes is rejected before anything is emitted (R159); otherwise destination `0` and salt
`MAGIC_ID`, and neither identity register is read. -/
def execPairClient (newId : Word) (name : Bytes) (s : State) : Host.Outcome State Fault Refusal :=
  if name.length > Config.nameLen then .next (s.raise (.nameTooLong name.length))
  else .next (buildAndSend 0x00 0xEB (pairArgs newId name) Config.magicId s)

/-- R154 -/
def execUnpairClient (n : Byte) (s : State) : Host.Outcome State Fault Refusal :=
  authenticatedRequest 0xEB [n] s

/-- R155 -/
def execControlOutlets (tempByte : Byte) (outlet1 outlet2 : Bool) (s : State) : Host.Outcome State Fault Refusal :=
  authenticatedRequest 0x87 (controlArgs tempByte outlet1 outlet2) s

/-- R156 -/
def execStartPreset (n : Byte) (s : State) : Host.Outcome State Fault Refusal :=
  authenticatedRequest 0xB1 [n] s

end Sys2Proof.Machine
end

