-- ==== Sys2Proof/Machine/Dispatch.lean ====
section
/-! DEFINITION. One arm per operation: the meaning it calls. -/

namespace Sys2Proof.Machine

/-- The effect of an operation on the state. -/
def exec (i : Instr) (s : State) : Host.Outcome State Fault Refusal :=
  match i with
  | .queryClientSlots => Sys2Proof.Machine.execQueryClientSlots s
  | .queryClientDetails n => Sys2Proof.Machine.execQueryClientDetails n s
  | .queryDeviceSettings => Sys2Proof.Machine.execQueryDeviceSettings s
  | .queryDeviceState => Sys2Proof.Machine.execQueryDeviceState s
  | .queryNickname => Sys2Proof.Machine.execQueryNickname s
  | .queryOutletSettings => Sys2Proof.Machine.execQueryOutletSettings s
  | .queryPresetDetails n => Sys2Proof.Machine.execQueryPresetDetails n s
  | .queryPresetSlots => Sys2Proof.Machine.execQueryPresetSlots s
  | .queryTechnicalInfo => Sys2Proof.Machine.execQueryTechnicalInfo s
  | .pairClient newId name => Sys2Proof.Machine.execPairClient newId name s
  | .unpairClient n => Sys2Proof.Machine.execUnpairClient n s
  | .controlOutlets tempByte outlet1 outlet2 => Sys2Proof.Machine.execControlOutlets tempByte outlet1 outlet2 s
  | .startPreset n => Sys2Proof.Machine.execStartPreset n s
  | .firstFragment f => Sys2Proof.Machine.execFirstFragment f s
  | .continuationFragment f => Sys2Proof.Machine.execContinuationFragment f s
  | .setClientId v => Sys2Proof.Machine.execSetClientId v s
  | .setClientSlot v => Sys2Proof.Machine.execSetClientSlot v s
  | .rxReset => Sys2Proof.Machine.execRxReset s

end Sys2Proof.Machine
end

