-- ==== Sys2Proof/Machine/Step.lean ====
section
/-! DEFINITION. One step: the next input is taken from its port, selected, checked and run as one transaction
(R16, R56). -/

namespace Sys2Proof.Machine

/-- With no input the block is idle and stays as it is (R276, R317; log entry 5). Otherwise the oldest input is read
as an operation; one that is not well-formed is refused before anything is emitted (R93), and before its meaning runs: a
slot operand over 15 in a request that would fault on unwritten identity is refused and does not fault, an order the spec
does not give (DESIGN CHOICE, log entry 19). -/
def step (s : State) : Host.Outcome State Fault Refusal :=
  match s.inbox with
  | [] => .next s
  | x :: rest =>
    match selectInput s.rxState x with
    | .error r => .refused r
    | .ok i =>
      match i.illFormed with
      | some why => .refused (.illFormed why)
      | none => exec i (s.takeInput rest)

/-- The frame with these bits placed where the next step reads its operation (log entry 6). -/
def State.withFetchWord (s : State) (nbits w : Nat) : State :=
  { s with inbox := .encoded (tableBytes nbits w) :: s.inbox }

end Sys2Proof.Machine
end

