-- ==== Sys2Proof/Machine/TempCodec.lean ====
section
/-! DEFINITION. The Temperature Codec (R230 to R233), which is OUTSIDE the block: it produces the `temp_byte` operand
of `CONTROL_OUTLETS` and reads the temperature bytes of dispatched payloads. No operation of the block calls it. -/

namespace Sys2Proof.Machine

/-- The parameter `TEMP_MAP` (R232): which affine mapping a device uses. -/
inductive TempMap where
  /-- `celsius*10 - 256` (R230, R231) -/
  | a
  /-- `celsius*10.4 - 268` (R232) -/
  | b
  deriving DecidableEq, Repr

/-- Steps of the byte per degree. -/
def TempMap.scale : TempMap → Rat
  | .a => 10
  | .b => 104 / 10

/-- The byte value subtracted. -/
def TempMap.offset : TempMap → Rat
  | .a => 256
  | .b => 268

/-- `round`: the nearest integer; which neighbour of an exact half is taken is a free value (R230; log entry 14). -/
def roundNearest (q : Rat) : Int :=
  let low := q.floor
  let rest := q - low
  if rest < 1 / 2 then low
  else if 1 / 2 < rest then low + 1
  else if Config.roundTieUp low then low + 1 else low

/-- Saturation to the byte domain (R230). -/
def clampByte (z : Int) : Byte := BitVec.ofNat 8 (min (max z 0) 255).toNat

/-- `TEMP_ENCODE` (R230, R232), on exact numbers of degrees. -/
def tempEncode (m : TempMap) (celsius : Rat) : Byte := clampByte (roundNearest (celsius * m.scale - m.offset))

/-- `TEMP_DECODE` (R231, R232), exactly. -/
def tempDecode (m : TempMap) (b : Byte) : Rat := (m.offset + (b.toNat : Rat)) / m.scale

end Sys2Proof.Machine
end

