-- ==== Sys2Proof/Machine/PayloadDecoder.lean ====
section
/-! DEFINITION. The Payload Decoder (R234 to R248), which is OUTSIDE the block: the consumer of `DISPATCH`. It is a pure
function, and nothing it answers comes back into the block (R60, R264 to R266). -/

namespace Sys2Proof.Machine

/-- The decoder's events, one variant each (R235 to R244, R248). Bit sets are ascending lists of bit indices and text
is a list of Unicode scalar values. -/
inductive Event where
  | successOrFailure (status : Byte)
  | slots (slots : List Nat)
  | deviceSettings (outletEnabledBits : List Nat) (defaultPresetSlot : Byte) (controllerSettingsBits : List Nat)
  | deviceState (timerState : Byte) (targetTemp actualTemp : Rat) (outlet1 outlet2 : Bool) (remainingSeconds : Nat)
      (updateCounter : Byte)
  | controlsOperated (changeMade : Bool) (timerState : Byte) (targetTemp actualTemp : Rat) (outlet1 outlet2 : Bool)
      (remainingSeconds : Nat) (updateCounter : Byte)
  | outletSettings (outletFlag minDurationSeconds : Byte) (maxTemp minTemp : Rat) (updateCounter : Byte)
  | technicalInformation (valveType valveSw uiType uiSw btSw : Byte)
  | nickname (name : List Char)
  | clientDetails (name : List Char)
  | presetDetails (presetSlot : Byte) (targetTemp : Rat) (durationSeconds : Byte) (outletEnabledBits : List Nat)
      (presetName : List Char)
  deriving DecidableEq, Repr

/-- What the decoder answers: at most one event, with the client slot it is handed on with, or a decode error (R234,
R245, R246). -/
inductive DecodeResult where
  | event (slot : Byte) (e : Event)
  /-- `UNRECOGNIZED_PAYLOAD`, code 4: silently ignored (R246, R264) -/
  | noEvent
  /-- `DECODE_ERROR`, code 5: surfaced to the listener (R245, R265); it carries nothing (log entry 20) -/
  | decodeError
  deriving DecidableEq, Repr

/-- What the listener is handed for one dispatched payload (R234, R264 to R266). An event carries the client slot (R234).
That neither error carries it, nor the decode error anything else, is the model's choice: R260 says "not specified" of the
value of a decode error and names only the status byte for an unknown status (DESIGN CHOICE, log entry 20). -/
inductive Notice where
  | event (slot : Byte) (e : Event)
  /-- `UNRECOGNIZED_PAYLOAD`, code 4: nothing is handed over (R264) -/
  | nothing
  /-- `DECODE_ERROR`, code 5: a hard error (R265); it carries nothing (DESIGN CHOICE, log entry 20) -/
  | decodeError
  /-- `UNKNOWN_STATUS`, code 6, with the status byte (R260) and without the client slot (DESIGN CHOICE, log entry 20): an
  error in place of the event (R266; log entry 15) -/
  | unknownStatus (status : Byte)
  deriving DecidableEq, Repr

/-- The code of an error class on the consumer's side (R260); an event has none. -/
def Notice.code : Notice → Option Nat
  | .event _ _ => none
  | .nothing => some 4
  | .decodeError => some 5
  | .unknownStatus _ => some 6

/-- The set bits of a word, ascending from the least significant (R234). -/
def bitIndices {n : Nat} (v : BitVec n) : List Nat := (List.range n).filter fun i => v.getLsbD i

/-- `payload[i]`, used below the payload's length only. -/
def payloadByte (p : Bytes) (i : Nat) : Byte := p.getD i 0

/-- A `be_u16` field at an offset (R14). -/
def payloadU16 (p : Bytes) (i : Nat) : Nat := beU16 (payloadByte p i) (payloadByte p (i + 1))

/-- A continuation byte of UTF-8 and its six bits. -/
def utf8Tail (b : Byte) : Option Nat := if 0x80 ≤ b.toNat ∧ b.toNat < 0xC0 then some (b.toNat - 0x80) else none

/-- Accept a code point: no shorter form exists and it is a Unicode scalar value (log entry 13). -/
def utf8Accept (least cp : Nat) (rest : Bytes) : Option (Char × Bytes) :=
  if least ≤ cp ∧ cp.isValidChar then some (Char.ofNat cp, rest) else none

/-- The first character of a UTF-8 string and what follows it (log entry 13). -/
def utf8First : Bytes → Option (Char × Bytes)
  | [] => none
  | b0 :: rest =>
    let lead := b0.toNat
    if lead < 0x80 then utf8Accept 0 lead rest
    else if lead < 0xC0 then none
    else if lead < 0xE0 then
      match rest with
      | b1 :: rest => do utf8Accept 0x80 ((lead - 0xC0) * 64 + (← utf8Tail b1)) rest
      | _ => none
    else if lead < 0xF0 then
      match rest with
      | b1 :: b2 :: rest => do
        utf8Accept 0x800 (((lead - 0xE0) * 64 + (← utf8Tail b1)) * 64 + (← utf8Tail b2)) rest
      | _ => none
    else if lead < 0xF8 then
      match rest with
      | b1 :: b2 :: b3 :: rest => do
        utf8Accept 0x10000
          ((((lead - 0xF0) * 64 + (← utf8Tail b1)) * 64 + (← utf8Tail b2)) * 64 + (← utf8Tail b3)) rest
      | _ => none
    else none

/-- Decode at most `fuel` characters; every byte must be used. -/
def utf8Loop : Nat → Bytes → Option (List Char)
  | _, [] => some []
  | 0, _ :: _ => none
  | fuel + 1, bs => do
    let (c, rest) ← utf8First bs
    let cs ← utf8Loop fuel rest
    return c :: cs

/-- `utf8(payload)`; none is malformed UTF-8 (R245). -/
def utf8 (bs : Bytes) : Option (List Char) := utf8Loop bs.length bs

/-- An event carrying text, or the decode error (R245). -/
def textEvent (slot : Byte) (bs : Bytes) (mk : List Char → Event) : DecodeResult :=
  match utf8 bs with
  | some cs => .event slot (mk cs)
  | none => .decodeError

/-- An outlet byte of an event: on exactly when it is `0x64` (R238). -/
def eventOutlet (b : Byte) : Bool := b == Config.outletOn

/-- Length 10 (R238). -/
def decodeDeviceState (m : TempMap) (p : Bytes) : Event :=
  .deviceState (payloadByte p 0) (tempDecode m (payloadByte p 2)) (tempDecode m (payloadByte p 4))
    (eventOutlet (payloadByte p 5)) (eventOutlet (payloadByte p 6)) (payloadU16 p 7) (payloadByte p 9)

/-- Length 11, discriminant `0x01` or `0x80` (R239). -/
def decodeControlsOperated (m : TempMap) (p : Bytes) : Event :=
  .controlsOperated (payloadByte p 0 == 1) (payloadByte p 1) (tempDecode m (payloadByte p 3))
    (tempDecode m (payloadByte p 5)) (eventOutlet (payloadByte p 6)) (eventOutlet (payloadByte p 7)) (payloadU16 p 8)
    (payloadByte p 10)

/-- Length 11, discriminant `0x00`, `0x04` or `0x08` (R240). -/
def decodeOutletSettings (m : TempMap) (p : Bytes) : Event :=
  .outletSettings (payloadByte p 0) (payloadByte p 4) (tempDecode m (payloadByte p 6))
    (tempDecode m (payloadByte p 8)) (payloadByte p 10)

/-- Length 16, discriminant 0 (R241). -/
def decodeTechnicalInformation (p : Bytes) : Event :=
  .technicalInformation (payloadByte p 1) (payloadByte p 3) (payloadByte p 5) (payloadByte p 7) (payloadByte p 15)

/-- `decode(client_slot, payload)` by length and discriminant (R234 to R246); no row uses the client slot, which is
passed through with the event (R234). -/
def decodePayload (m : TempMap) (slot : Byte) (p : Bytes) : DecodeResult :=
  let b0 := payloadByte p 0
  match p.length with
  | 1 => .event slot (.successOrFailure b0)
  | 2 => .event slot (.slots (bitIndices (BitVec.ofNat 16 (payloadU16 p 0))))
  | 4 => .event slot (.deviceSettings (bitIndices (payloadByte p 1)) (payloadByte p 2) (bitIndices (payloadByte p 3)))
  | 10 => .event slot (decodeDeviceState m p)
  | 11 =>
    if b0 = 0x01 ∨ b0 = 0x80 then .event slot (decodeControlsOperated m p)
    else if b0 = 0x00 ∨ b0 = 0x04 ∨ b0 = 0x08 then .event slot (decodeOutletSettings m p)
    else .noEvent
  | 16 => if b0 = 0 then .event slot (decodeTechnicalInformation p) else textEvent slot p .nickname
  | 20 => textEvent slot p .clientDetails
  | 24 =>
    textEvent slot (p.drop 8) (.presetDetails b0 (tempDecode m (payloadByte p 2)) (payloadByte p 4)
      (bitIndices (payloadByte p 5)))
  | _ => .noEvent

/-- Whether a status code is outside the two constants, which are free values (R235, R266; log entry 15). -/
def unknownStatus (status : Byte) : Bool := status ≠ Config.statusSuccess ∧ status ≠ Config.statusFailure

/-- The listener's side of the decoder (R264 to R266): an unknown status code in a SuccessOrFailure event is surfaced as
an error rather than accepted. -/
def surface : DecodeResult → Notice
  | .event slot (.successOrFailure status) =>
    if unknownStatus status then .unknownStatus status else .event slot (.successOrFailure status)
  | .event slot e => .event slot e
  | .noEvent => .nothing
  | .decodeError => .decodeError

/-- What the listener is handed for what the block has presented, one notice a dispatch, in order (R60, R234). -/
def notices (m : TempMap) (out : List Output) : List Notice :=
  (dispatches out).map fun d => surface (decodePayload m d.1 d.2)

end Sys2Proof.Machine
end

