-- ==== Sys2Proof/Safety.lean ====
section
/-! DEFINITION. What counts as a good state and a safe run. -/

namespace Sys2Proof.Machine

/-- The invariant of the reassembly registers: the buffer in canonical form; `PEND_SLOT` and `EXP_LEN` meaningful
exactly while the buffer is not empty (R30); while it is not, `BUF_LEN < EXP_LEN` (R31); every held byte written
(R25). -/
abbrev State.Inv (s : State) : Prop :=
  s.buf.wf ∧
  (s.pendSlot.isSome ↔ s.bufLen ≠ 0) ∧
  (s.expLen.isSome ↔ s.bufLen ≠ 0) ∧
  (∀ exp ∈ s.expLen, s.bufLen.toNat < exp.toNat) ∧
  (∀ a < s.bufLen.toNat, (s.buf.read a).isSome)

/-- The identity invariant, a duty of the host (R24): once assigned, `CLIENT_ID` is neither 0 nor `MAGIC_ID`. -/
abbrev State.IdentityValid (s : State) : Prop :=
  ∀ id ∈ s.clientId, id ≠ 0 ∧ id ≠ Config.magicId

/-- Both identity registers hold a value, from launch or from a write (R39, R304). -/
abbrev State.IdentityWritten (s : State) : Prop := s.clientId.isSome ∧ s.clientSlot.isSome

/-- Every output keeps to its port's format: a chunk has 1 to 20 bytes (R58), a dispatched payload at most 255
(R60). -/
abbrev Output.Legal : Output → Prop
  | .tx c => 1 ≤ c.length ∧ c.length ≤ Config.chunkSize
  | .dispatch _ p => p.length ≤ 255
  | .diag _ | .ok | .invalidArgument _ => True

/-- Every output presented so far is legal. -/
abbrev State.PortsLegal (s : State) : Prop := ∀ o ∈ s.outbox, o.Legal

/-- Every fragment still to be delivered keeps to the transport's bound `FRAG_MAX` (R12, R59). -/
abbrev State.Deliverable (s : State) (fragMax : Option Nat := Config.fragMax) : Prop :=
  ∀ f, .frag f ∈ s.inbox → transportAdmits fragMax f

/-- A run of `n` steps is safe when it ends in a next state: no fault, no refusal on the way. -/
def SafeRun (n : Nat) (s : State) : Prop := ∃ t, core.run n s = .next t

end Sys2Proof.Machine
end

