-- ==== Sys2Proof/Certificates/Slice0/Obligations.lean ====
section
/-! DEFINITION. The statements about MMCODEC for the provers. A docstring names the rules of `spec/` a statement rests
on; where a statement rests on a choice of the model, it names the log entry. -/

namespace Sys2Proof.Claims

open Sys2Proof.Machine

/-- The operation answers a next state in which the frame `fields ++ [crc_hi, crc_lo]` has been presented as one chunk,
then `OK`, the working register `CRC_REG` holds the checksum, and every other element of the state is as before. -/
def SendsOneChunk (i : Instr) (s : State) (fields : Bytes) (salt : Word) : Prop :=
  exec i s = .next
    { s with
      crcReg := checksum fields salt
      outbox := s.outbox ++
        [.tx (fields ++ [(checksum fields salt).extractLsb' 8 8, (checksum fields salt).extractLsb' 0 8]), .ok] }

/-- From a fresh Session with this identity the operation presents exactly these chunks, then `OK`. -/
def Presents (slot : Byte) (id : Word) (i : Instr) (presented : List Bytes) : Prop :=
  ∃ t, exec i (State.launch (some id) (some slot)) = .next t ∧ t.outbox = presented.map .tx ++ [.ok]

/-- The salt of a request's checksum (R161). -/
def saltOf (i : Instr) (id : Word) : Word := if i.isPairing then 0x54D2EE63 else id

/-- The name operand of a pairing request fits its field. -/
def NameFits (i : Instr) : Prop := ∀ v name, i = .pairClient v name → name.length ≤ 20

/-- One bit step in a register wider than 16 bits, as the source's software holds it (R126): nothing is discarded. -/
def wideBit (reg : Nat) (d : Bool) : Nat :=
  if reg.testBit 15 ^^ d then (2 * reg) ^^^ 0x1021 else 2 * reg

/-- Eight such steps, then the mask to 16 bits "after each byte" (R126). -/
def wideByte (reg : Nat) (b : Byte) : Nat := (bitsMsbFirst b).foldl wideBit reg % 65536

/-- Both readings of a delivered fragment. -/
def IsDelivery (i : Instr) (f : Bytes) : Prop := i = .firstFragment f ∨ i = .continuationFragment f

/-- Two output lists that differ at most in the last two bytes of what `TX` carried. -/
def SameButCheckBytes (a b : List Output) : Prop :=
  (txChunks a).map List.length = (txChunks b).map List.length ∧
  (txChunks a).flatten.dropLast.dropLast = (txChunks b).flatten.dropLast.dropLast ∧
  dispatches a = dispatches b ∧ diagnostics a = diagnostics b ∧ hostResults a = hostResults b

/-- Two states that agree on every register and on every port, each port's traffic in its own order. -/
def SamePerPort (t u : State) : Prop :=
  u = { t with outbox := u.outbox } ∧ txChunks u.outbox = txChunks t.outbox ∧
  dispatches u.outbox = dispatches t.outbox ∧ diagnostics u.outbox = diagnostics t.outbox ∧
  hostResults u.outbox = hostResults t.outbox

/-- The operations of the host that do not touch the reassembler. -/
def IsEncoderSide (i : Instr) : Prop := i.isFragment = false ∧ i ≠ .rxReset

/-- The standard UTF-8 encoding of some characters. -/
def textBytes (cs : List Char) : Bytes := cs.flatMap fun c => (String.utf8EncodeChar c).map fun b => b.toBitVec

end Sys2Proof.Claims

open Sys2Proof Sys2Proof.Machine Sys2Proof.Claims

/-! ### Reset and the step -/

/-- R38, R39: after reset the reassembler is Idle with nothing pending, and each identity register holds the launch
parameter it was given or no value; the reset state is such a launch, and the one without parameters starts unwritten.
Nothing is output (R301). -/
def Obligations.ResetLeavesIdleAndIdentityAsLaunched : Prop :=
  (∀ id slot, (State.launch id slot).bufLen = 0 ∧ (State.launch id slot).rxState = .idle ∧
    (State.launch id slot).pendSlot = none ∧ (State.launch id slot).expLen = none ∧
    (State.launch id slot).clientId = id ∧ (State.launch id slot).clientSlot = slot ∧
    (State.launch id slot).outbox = []) ∧
  (∃ id slot, State.reset = State.launch id slot) ∧
  State.resetUnwritten.clientId = none ∧ State.resetUnwritten.clientSlot = none

/-- The invariant of the reassembly registers and the legality of the ports hold at reset, whatever the launch
parameters. -/
def Obligations.InvariantHoldsAtReset : Prop :=
  ∀ id slot, (State.launch id slot).Inv ∧ (State.launch id slot).PortsLegal

/-- Every step keeps the invariant: the buffer's canonical form, the lockstep of `PEND_SLOT` and `EXP_LEN` with
`BUF_LEN`, and `BUF_LEN < EXP_LEN` (the content of R30 and R31, which the spec derives). -/
def Obligations.StepKeepsReassemblyInvariant : Prop :=
  ∀ s t : State, s.Inv → step s = .next t → t.Inv

/-- Every step keeps the ports legal: chunks of 1 to 20 bytes, dispatched payloads of at most 255. -/
def Obligations.StepKeepsPortsLegal : Prop :=
  ∀ s t : State, s.Inv → s.PortsLegal → step s = .next t → t.PortsLegal

/-- The step runs the operation its oldest input is: a host command as it is, a fragment by `RX_STATE` (R191), encoded
bytes as what they decode to; with no input the block stays as it is. The input queue is the model's (log entries 5
and 6). -/
def Obligations.StepRunsTheSelectedOperation : Prop :=
  ∀ s : State,
    (s.inbox = [] → step s = .next s) ∧
    (∀ rest i, s.inbox = .host i :: rest → i.isHostCommand → i.WellFormed →
      step s = exec i { s with inbox := rest }) ∧
    (∀ rest f, s.inbox = .frag f :: rest → s.bufLen = 0 →
      step s = exec (.firstFragment f) { s with inbox := rest }) ∧
    (∀ rest f, s.inbox = .frag f :: rest → s.bufLen ≠ 0 →
      step s = exec (.continuationFragment f) { s with inbox := rest }) ∧
    (∀ rest bs i, s.inbox = .encoded bs :: rest → decodeFrame bs = .ok i → i.WellFormed →
      step s = exec i { s with inbox := rest })

/-- R93: a request with `N > 15` is refused by a named well-formedness check, as a command and as the encoded frame of
the two requests whose argument byte is `N` itself; bytes that are no request and a fragment on the `HOST` port are
refused too (the model's own; log entry 6). -/
def Obligations.StepRefusesWhatTheHostMayNotIssue : Prop :=
  (∀ (s : State) (rest : List Input) (n : Byte) (i : Instr), 15 < n.toNat →
    i ∈ [.queryClientDetails n, .queryPresetDetails n, .unpairClient n, .startPreset n] →
    s.inbox = .host i :: rest → step s = .refused (.illFormed (.slotNotAdmitted n))) ∧
  (∀ (s : State) (rest : List Input) (n : Byte) (i : Instr) (bs : Bytes), 15 < n.toNat →
    i ∈ [.unpairClient n, .startPreset n] → decodeFrame bs = .ok i → s.inbox = .encoded bs :: rest →
    step s = .refused (.illFormed (.slotNotAdmitted n))) ∧
  (∀ (s : State) (rest : List Input) (bs : Bytes) (e : DecodeError), s.inbox = .encoded bs :: rest →
    decodeFrame bs = .error e → step s = .refused (.notARequest e)) ∧
  (∀ (s : State) (rest : List Input) (i : Instr), s.inbox = .host i :: rest → i.isFragment →
    step s = .refused .notAHostCommand)

/-! ### Encoding -/

/-- Words written out from the encodings of R92, one for each request. -/
def Obligations.ListedFramesDecode : Prop :=
  decodeFrame [0x01, 0x6B, 0x01, 0x00, 0x7F, 0x54] = .ok .queryClientSlots ∧
  decodeFrame [0x01, 0x6B, 0x01, 0x1F, 0x1E, 0xF7] = .ok (.queryClientDetails 15) ∧
  decodeFrame [0x01, 0x3E, 0x00, 0x52, 0xAC] = .ok .queryDeviceSettings ∧
  decodeFrame [0x01, 0x07, 0x00, 0x35, 0xC2] = .ok .queryDeviceState ∧
  decodeFrame [0x01, 0x44, 0x00, 0x91, 0x32] = .ok .queryNickname ∧
  decodeFrame [0x01, 0x10, 0x00, 0xE7, 0x07] = .ok .queryOutletSettings ∧
  decodeFrame [0x01, 0x30, 0x01, 0x43, 0x21, 0x56] = .ok (.queryPresetDetails 3) ∧
  decodeFrame [0x01, 0x30, 0x01, 0x80, 0xFC, 0x3C] = .ok .queryPresetSlots ∧
  decodeFrame [0x01, 0x32, 0x01, 0x01, 0x14, 0x5E] = .ok .queryTechnicalInfo ∧
  decodeFrame ([0x00, 0xEB, 0x18, 0xCA, 0xFE, 0xBA, 0xBE, 0x42, 0x61, 0x74, 0x68, 0x72, 0x6F, 0x6F, 0x6D]
    ++ List.replicate 12 0x00 ++ [0xFD, 0x1F]) =
    .ok (.pairClient 0xCAFEBABE [0x42, 0x61, 0x74, 0x68, 0x72, 0x6F, 0x6F, 0x6D]) ∧
  decodeFrame [0x01, 0xEB, 0x01, 0x02, 0x90, 0x2E] = .ok (.unpairClient 2) ∧
  decodeFrame [0x01, 0x87, 0x05, 0x01, 0x01, 0x00, 0x00, 0x64, 0x6D, 0xED] = .ok (.controlOutlets 0x00 false true) ∧
  decodeFrame [0x01, 0xB1, 0x01, 0x0F, 0xA8, 0x8D] = .ok (.startPreset 15)

/-- Decode and encode agree: for every well-formed request whose name operand fits and is determined by its field (log
entry 8), every destination slot and every check value, the frame exists and decodes to the request. -/
def Obligations.DecodeEncodeAgree : Prop :=
  ∀ (i : Instr) (dest : Byte) (check : Half), i.isRequest → i.WellFormed → NameFits i → i.nameUnpadded →
    ∃ f, encode dest check i = some f ∧ decodeFrame f = .ok i

/-- The other direction: bytes that decode to an operation are exactly the frame of that request with the destination
slot and the check value they carry, so a byte string has one meaning. That the name read from a frame never ends in the
pad byte is the model's choice (log entry 8). -/
def Obligations.DecodedBytesAreTheEncoding : Prop :=
  ∀ (f : Bytes) (i : Instr), decodeFrame f = .ok i →
    i.isRequest ∧ i.nameUnpadded ∧ NameFits i ∧ ∃ dest check, encode dest check i = some f

/-- R101: bytes that decode to a request belong to the row of `opcode_table.json` of that request's mnemonic, and no
byte string belongs to two rows. -/
def Obligations.DecodedBytesBelongToTheirOneRow : Prop :=
  (∀ (f : Bytes) (i : Instr), decodeFrame f = .ok i →
    ∃ r ∈ frameRows, r.mnemonic = i.mnemonic ∧ r.admits f) ∧
  (∀ (f : Bytes), ∀ r ∈ frameRows, ∀ q ∈ frameRows, r.admits f → q.admits f → r = q)

/-- R98, which the spec derives: inside the admitted range no two different mnemonics produce the same fields; outside
it `QUERY_CLIENT_DETAILS 0xF0` is the frame of `QUERY_CLIENT_SLOTS` and `QUERY_PRESET_DETAILS 0x40` that of
`QUERY_PRESET_SLOTS`. -/
def Obligations.FieldsDetermineTheMnemonicInTheAdmittedRange : Prop :=
  (∀ (i j : Instr) (dest dest' : Byte) (c c' : Half) (fields : Bytes) (x y x' y' : Byte), i.isRequest → j.isRequest →
    i.WellFormed → j.WellFormed → encode dest c i = some (fields ++ [x, y]) →
    encode dest' c' j = some (fields ++ [x', y']) → i.mnemonic = j.mnemonic) ∧
  (∀ s : State, exec (.queryClientDetails 0xF0) s = exec .queryClientSlots s ∧
    exec (.queryPresetDetails 0x40) s = exec .queryPresetSlots s)

/-! ### The checksum -/

/-- R120: `CHECKSUM(payload, salt)` is the CRC, from `0xFFFF`, of the payload and then the salt's four bytes, most
significant first; with the two values the rule gives. -/
def Obligations.ChecksumCoversPayloadThenSalt : Prop :=
  (∀ (payload : Bytes) (salt : Word), checksum payload salt =
    (payload ++ [salt.extractLsb' 24 8, salt.extractLsb' 16 8, salt.extractLsb' 8 8, salt.extractLsb' 0 8]).foldl
      crcByte 0xFFFF) ∧
  checksum [] 0x00000000 = 0x84C0 ∧ checksum [0x01, 0x07, 0x00] 0x12345678 = 0x35C2

/-- R123, whose conditional XOR is the spec's own general knowledge (G1, log entry 17) and whose bit-level description it
marks as derived: one bit step shifts left by one, the top bit falling out, and XORs `0x1021` in exactly when the old top bit
differs from the input bit; bit by bit, the new bit 0 is `top xor d`, bits 5 and 12 are the bit below XOR `top xor d`,
every other bit is the bit below. -/
def Obligations.CrcBitStepBitByBit : Prop :=
  ∀ (reg : Half) (d : Bool),
    crcBit reg d = (if reg.getLsbD 15 ≠ d then (reg <<< 1) ^^^ 0x1021 else reg <<< 1) ∧
    (crcBit reg d).getLsbD 0 = (reg.getLsbD 15 ^^ d) ∧
    ∀ k < 15, (crcBit reg d).getLsbD (k + 1) =
      (if k + 1 = 5 ∨ k + 1 = 12 then reg.getLsbD k ^^ (reg.getLsbD 15 ^^ d) else reg.getLsbD k)

/-- R126, which the spec derives: a register wider than 16 bits, masked after each byte, gives the same checksum as the
16-bit register, on every input. -/
def Obligations.MaskingPerByteGivesTheSameChecksum : Prop :=
  ∀ data : Bytes, data.foldl wideByte 0xFFFF = (crcCore data).toNat

/-! ### Chunks -/

/-- R88, for every chunk size the source speaks of: chunk `i` is the slice of the frame from `size*i` to
`min(size*(i+1), F)`, there are `ceil(F / size)` chunks, every chunk but possibly the last has the chunk size, none is
empty, and together they are the frame. At size 20 a frame of 1 to 20 bytes is one chunk and one of 29 is 20 + 9,
and only the pairing request's frame needs two. -/
def Obligations.ChunksReproduceTheFrame : Prop :=
  (∀ (size : Nat) (f : Bytes), 1 ≤ size → size ≤ 20 →
    (chunks size f).flatten = f ∧ (∀ c ∈ (chunks size f).dropLast, c.length = size) ∧
    (∀ c ∈ chunks size f, 1 ≤ c.length ∧ c.length ≤ size) ∧
    (chunks size f).length = (f.length + size - 1) / size ∧
    ∀ i, size * i < f.length → (chunks size f)[i]? = some ((f.take (min (size * (i + 1)) f.length)).drop (size * i))) ∧
  (∀ f : Bytes, 1 ≤ f.length → f.length ≤ 20 → chunks 20 f = [f]) ∧
  (∀ f : Bytes, f.length = 29 → (chunks 20 f).map List.length = [20, 9]) ∧
  (∀ (i : Instr) (dest : Byte) (check : Half) (f : Bytes), i.isRequest → encode dest check i = some f →
    (chunks 20 f).length = if i.isPairing then 2 else 1)

/-! ### The requests -/

/-- R146 to R149: the four requests without arguments send a 5-byte frame; nothing else changes but `CRC_REG`. -/
def Obligations.BareQueriesSendFiveByteFrames : Prop :=
  (∀ (s : State) (id : Word) (slot : Byte), s.clientId = some id → s.clientSlot = some slot →
    SendsOneChunk .queryDeviceSettings s [slot, 0x3E, 0x00] id ∧
    SendsOneChunk .queryDeviceState s [slot, 0x07, 0x00] id ∧
    SendsOneChunk .queryNickname s [slot, 0x44, 0x00] id ∧
    SendsOneChunk .queryOutletSettings s [slot, 0x10, 0x00] id) ∧
  Presents 0x01 0x12345678 .queryDeviceSettings [[0x01, 0x3E, 0x00, 0x52, 0xAC]] ∧
  Presents 0x01 0x12345678 .queryDeviceState [[0x01, 0x07, 0x00, 0x35, 0xC2]] ∧
  Presents 0x00 0x00000001 .queryDeviceState [[0x00, 0x07, 0x00, 0x29, 0xAE]] ∧
  Presents 0xFF 0xFFFFFFFF .queryDeviceState [[0xFF, 0x07, 0x00, 0x05, 0x31]] ∧
  Presents 0x01 0x12345678 .queryNickname [[0x01, 0x44, 0x00, 0x91, 0x32]] ∧
  Presents 0x01 0x12345678 .queryOutletSettings [[0x01, 0x10, 0x00, 0xE7, 0x07]]

/-- R144, R151, R152: the three requests with a constant argument byte send a 6-byte frame. -/
def Obligations.ConstantQueriesSendSixByteFrames : Prop :=
  (∀ (s : State) (id : Word) (slot : Byte), s.clientId = some id → s.clientSlot = some slot →
    SendsOneChunk .queryClientSlots s [slot, 0x6B, 0x01, 0x00] id ∧
    SendsOneChunk .queryPresetSlots s [slot, 0x30, 0x01, 0x80] id ∧
    SendsOneChunk .queryTechnicalInfo s [slot, 0x32, 0x01, 0x01] id) ∧
  Presents 0x01 0x12345678 .queryClientSlots [[0x01, 0x6B, 0x01, 0x00, 0x7F, 0x54]] ∧
  Presents 0x01 0x12345678 .queryPresetSlots [[0x01, 0x30, 0x01, 0x80, 0xFC, 0x3C]] ∧
  Presents 0x01 0x12345678 .queryTechnicalInfo [[0x01, 0x32, 0x01, 0x01, 0x14, 0x5E]]

/-- R145, R150, R154, R156: the four requests with a slot operand send a 6-byte frame, for every `N` (the hardware
function wraps modulo 256; the refusal of `N > 15` is the step's). -/
def Obligations.SlotRequestsSendSixByteFrames : Prop :=
  (∀ (s : State) (id : Word) (slot n : Byte), s.clientId = some id → s.clientSlot = some slot →
    SendsOneChunk (.queryClientDetails n) s [slot, 0x6B, 0x01, BitVec.ofNat 8 ((0x10 + n.toNat) % 256)] id ∧
    SendsOneChunk (.queryPresetDetails n) s [slot, 0x30, 0x01, BitVec.ofNat 8 ((0x40 + n.toNat) % 256)] id ∧
    SendsOneChunk (.unpairClient n) s [slot, 0xEB, 0x01, n] id ∧
    SendsOneChunk (.startPreset n) s [slot, 0xB1, 0x01, n] id) ∧
  Presents 0x01 0x12345678 (.queryClientDetails 2) [[0x01, 0x6B, 0x01, 0x12, 0x3F, 0x8D]] ∧
  Presents 0x01 0x12345678 (.queryPresetDetails 3) [[0x01, 0x30, 0x01, 0x43, 0x21, 0x56]] ∧
  Presents 0x01 0x12345678 (.unpairClient 2) [[0x01, 0xEB, 0x01, 0x02, 0x90, 0x2E]] ∧
  Presents 0x01 0x12345678 (.startPreset 1) [[0x01, 0xB1, 0x01, 0x01, 0x67, 0x25]]

/-- R155, R95: `CONTROL_OUTLETS` sends a 10-byte frame; the timer mode is 1 when either outlet is requested on, else 3;
an outlet byte is `0x64` or `0x00`; the temperature byte is sent unchanged. -/
def Obligations.ControlOutletsSendsTenByteFrame : Prop :=
  (∀ (s : State) (id : Word) (slot temp : Byte) (o1 o2 : Bool), s.clientId = some id → s.clientSlot = some slot →
    SendsOneChunk (.controlOutlets temp o1 o2) s
      [slot, 0x87, 0x05, if o1 = true ∨ o2 = true then 1 else 3, 0x01, temp, if o1 then 0x64 else 0x00,
        if o2 then 0x64 else 0x00] id) ∧
  Presents 0x01 0x12345678 (.controlOutlets 0x7E true false) [[0x01, 0x87, 0x05, 0x01, 0x01, 0x7E, 0x64, 0x00, 0x12, 0x67]] ∧
  Presents 0x01 0x12345678 (.controlOutlets 0x7E false false) [[0x01, 0x87, 0x05, 0x03, 0x01, 0x7E, 0x00, 0x00, 0x8D, 0xB9]] ∧
  Presents 0x01 0x12345678 (.controlOutlets 0x00 false true) [[0x01, 0x87, 0x05, 0x01, 0x01, 0x00, 0x00, 0x64, 0x6D, 0xED]] ∧
  Presents 0x01 0x12345678 (.controlOutlets 0xFF true true) [[0x01, 0x87, 0x05, 0x01, 0x01, 0xFF, 0x64, 0x64, 0x91, 0x25]]

/-- R153, R94: in every state, identity written or not, `PAIR_CLIENT` with a name of at most 20 bytes sends its 29-byte
frame (destination `0`, salt `MAGIC_ID`) as chunks of 20 and 9 bytes, then `OK`, and changes nothing else but
`CRC_REG`: neither identity register is written. -/
def Obligations.PairClientSendsTwoChunks : Prop :=
  (∀ (s : State) (newId : Word) (name fields f : Bytes), name.length ≤ 20 →
    fields = [0x00, 0xEB, 0x18, newId.extractLsb' 24 8, newId.extractLsb' 16 8, newId.extractLsb' 8 8,
      newId.extractLsb' 0 8] ++ name ++ List.replicate (20 - name.length) 0x00 →
    f = fields ++ [(checksum fields 0x54D2EE63).extractLsb' 8 8, (checksum fields 0x54D2EE63).extractLsb' 0 8] →
    f.length = 29 ∧
    exec (.pairClient newId name) s = .next
      { s with crcReg := checksum fields 0x54D2EE63, outbox := s.outbox ++ [.tx (f.take 20), .tx (f.drop 20), .ok] }) ∧
  Presents 0x01 0x12345678 (.pairClient 0x0001E240 [0x50, 0x68, 0x6F, 0x6E, 0x65])
    [[0x00, 0xEB, 0x18, 0x00, 0x01, 0xE2, 0x40, 0x50, 0x68, 0x6F, 0x6E, 0x65, 0, 0, 0, 0, 0, 0, 0, 0],
     [0, 0, 0, 0, 0, 0, 0, 0x35, 0x46]]

/-- R159, R261: a name longer than 20 bytes ends the command with `INVALID_ARGUMENT(NAME_TOO_LONG, len)`: nothing is
presented on `TX` or `DIAG` and no register changes; no other cause gives that result. -/
def Obligations.PairClientRejectsLongName : Prop :=
  (∀ (s : State) (newId : Word) (name : Bytes), 20 < name.length →
    exec (.pairClient newId name) s =
      .next { s with outbox := s.outbox ++ [.invalidArgument (.nameTooLong name.length)] }) ∧
  (∀ (i : Instr) (s t : State) (out : List Output) (c : Cause), exec i s = .next t → t.outbox = s.outbox ++ out →
    some c ∈ hostResults out → ∃ newId name, i = .pairClient newId name ∧ 20 < name.length ∧ c = .nameTooLong name.length)

/-- R41: a request other than `PAIR_CLIENT` issued while `CLIENT_ID` or `CLIENT_SLOT` has never been written faults with
`UNWRITTEN_IDENTITY`; `PAIR_CLIENT` is legal immediately after reset. That the fault names all the registers without a
value is the model's choice (log entry 1). -/
def Obligations.UnwrittenIdentityFaults : Prop :=
  (∀ (i : Instr) (s : State), i.isRequest → i.isPairing = false → (s.clientId = none ∨ s.clientSlot = none) →
    ∃ regs, exec i s = .fault (.unwrittenIdentity regs) ∧ (.clientId ∈ regs ↔ s.clientId = none) ∧
      (.clientSlot ∈ regs ↔ s.clientSlot = none)) ∧
  (∀ (initId : Option Word) (initSlot : Option Byte) (newId : Word) (name : Bytes),
    ∃ t, exec (.pairClient newId name) (State.launch initId initSlot) = .next t)

/-- Every operation completes as the first one after `State.reset`, whatever the free values it was launched with: a
reset with both launch parameters leaves no register without a value (R39, R304; which form of R39 `State.reset` takes
is log entry 1). -/
def Obligations.EveryOperationRunsFromReset : Prop :=
  ∀ i : Instr, ∃ t, exec i State.reset = .next t

/-- Identity once written stays written, and no step from such a state faults with `UNWRITTEN_IDENTITY` (the content of
R41 and R304): the fault belongs to launches without the parameters alone. That `State.reset` is such a state is the form
of R39 the model chooses (log entry 1). -/
def Obligations.WrittenIdentityNeverFaults : Prop :=
  State.reset.IdentityWritten ∧
  (∀ s t : State, s.IdentityWritten → step s = .next t → t.IdentityWritten) ∧
  (∀ (s : State) (regs : List IdentityRegister), s.IdentityWritten → step s ≠ .fault (.unwrittenIdentity regs)) ∧
  ∀ (s t u : State) (v : Word) (w : Byte), exec (.setClientId v) s = .next t → exec (.setClientSlot w) t = .next u →
    u.IdentityWritten

/-- An ill-formed request is refused whether or not its identity is written: the refusal of R93 comes before the fault of
R41, an order the model chooses (log entry 19). -/
def Obligations.RefusalComesBeforeTheIdentityFault : Prop :=
  ∀ (s : State) (rest : List Input) (i : Instr) (why : IllFormed), s.inbox = .host i :: rest → i.isHostCommand →
    i.illFormed = some why → step s = .refused (.illFormed why)

/-- R162: a request reads `CLIENT_ID` and `CLIENT_SLOT` (`PAIR_CLIENT` not even these) and its operands, writes no
register but the working register `CRC_REG`, does not touch the reassembler, and with the same operands and identity
always produces the same outputs. -/
def Obligations.RequestsArePure : Prop :=
  (∀ (i : Instr) (s t : State), i.isRequest → exec i s = .next t →
    ∃ out, t = { s with crcReg := t.crcReg, outbox := s.outbox ++ out } ∧ dispatches out = [] ∧ diagnostics out = [] ∧
      ∀ s' : State, (i.isPairing ∨ (s'.clientId = s.clientId ∧ s'.clientSlot = s.clientSlot)) →
        ∃ t', exec i s' = .next t' ∧ t'.outbox = s'.outbox ++ out)

/-- Headline: whatever request completes, the chunks it presents are together exactly the encoding of that request for
the identity it ran under, with a checksum that a receiver knowing the salt recomputes from the frame (R86, R130, R161),
and, for an admitted operand, they decode to that request. -/
def Obligations.PresentedChunksAreTheEncodedRequest : Prop :=
  ∀ (i : Instr) (s : State) (id : Word) (slot : Byte), i.isRequest → NameFits i →
    (i.isPairing ∨ (s.clientId = some id ∧ s.clientSlot = some slot)) →
    ∃ t out f check, exec i s = .next t ∧ t.outbox = s.outbox ++ out ∧ hostResults out = [none] ∧
      encode slot check i = some f ∧ (txChunks out).flatten = f ∧
      check = checksum (f.take (f.length - 2)) (saltOf i id) ∧
      f.drop (f.length - 2) = [check.extractLsb' 8 8, check.extractLsb' 0 8] ∧
      (i.WellFormed → i.nameUnpadded → decodeFrame f = .ok i)

/-! ### Identity -/

/-- R157, R158: the identity writes accept any value, write their register, output nothing and change nothing else. -/
def Obligations.IdentityWritesTheirRegister : Prop :=
  ∀ (s : State) (v : Word) (w : Byte),
    exec (.setClientId v) s = .next { s with clientId := some v } ∧
    exec (.setClientSlot w) s = .next { s with clientSlot := some w }

/-- The content of R35 and R69 on identity: only `SET_CLIENT_ID` changes `CLIENT_ID`, only `SET_CLIENT_SLOT` changes
`CLIENT_SLOT`, and after both writes every authenticated request completes with the new identity as destination and
salt. -/
def Obligations.IdentityChangesOnlyByItsWrites : Prop :=
  (∀ (i : Instr) (s t : State), exec i s = .next t →
    (t.clientId ≠ s.clientId → ∃ v, i = .setClientId v) ∧ (t.clientSlot ≠ s.clientSlot → ∃ v, i = .setClientSlot v)) ∧
  (∀ (i : Instr) (s : State) (v : Word) (w : Byte), i.isRequest → i.isPairing = false →
    ∃ t u r opcode args, exec (.setClientId v) s = .next t ∧ exec (.setClientSlot w) t = .next u ∧
      encodeArgs i = some (opcode, args) ∧ exec i u = .next r ∧
      r.crcReg = checksum ([w, opcode, BitVec.ofNat 8 args.length] ++ args) v ∧
      (txChunks r.outbox).flatten = (txChunks s.outbox).flatten ++
        ([w, opcode, BitVec.ofNat 8 args.length] ++ args ++ [r.crcReg.extractLsb' 8 8, r.crcReg.extractLsb' 0 8]))

/-- Noninterference (the content of R22): `CLIENT_ID` is readable on no output port. Two runs of one operation that
differ only in the value of `CLIENT_ID` give the same outputs but for the two check bytes of a frame, and the same state
but for `CLIENT_ID`, `CRC_REG` and those outputs. -/
def Obligations.ClientIdShowsOnlyInCheckBytes : Prop :=
  ∀ (i : Instr) (s t : State) (a b : Word), exec i { s with clientId := some a } = .next t →
    ∃ u outA outB, exec i { s with clientId := some b } = .next u ∧
      u = { t with clientId := u.clientId, crcReg := u.crcReg, outbox := u.outbox } ∧
      t.outbox = s.outbox ++ outA ∧ u.outbox = s.outbox ++ outB ∧ SameButCheckBytes outA outB

/-! ### The reassembler -/

/-- R192, R193: in the Idle state a fragment of fewer than 3 bytes is dropped with `SHORT_FRAGMENT`; nothing else
happens. -/
def Obligations.IdleShortFragmentIsDropped : Prop :=
  ∀ (s : State) (i : Instr) (f : Bytes), IsDelivery i f → s.bufLen = 0 → f.length < 3 →
    exec i s = .next { s with outbox := s.outbox ++ [.diag (.shortFragment f.length)] }

/-- R194, R195: in the Idle state a first fragment with some but not all payload bytes is stored, whatever its byte 1:
the buffer's first bytes, `BUF_LEN`, `PEND_SLOT = marker - 0x40 mod 256` and `EXP_LEN`; nothing is output and nothing
else changes, no byte of the buffer beyond the stored ones. -/
def Obligations.IdleFirstPieceIsStored : Prop :=
  ∀ (s : State) (i : Instr) (marker x exp : Byte) (init : Bytes), IsDelivery i (marker :: x :: exp :: init) →
    s.bufLen = 0 → 0 < init.length → init.length < exp.toNat →
    ∃ t, exec i s = .next t ∧ t.rxState = .accumulating ∧ t.bufLen.toNat = init.length ∧
      t.pendSlot = some (BitVec.ofNat 8 ((marker.toNat + 256 - 0x40) % 256)) ∧ t.expLen = some exp ∧
      (∀ k < init.length, t.buf.read k = init[k]?) ∧ (∀ a, init.length ≤ a → t.buf.read a = s.buf.read a) ∧
      t = { s with buf := t.buf, bufLen := t.bufLen, pendSlot := t.pendSlot, expLen := t.expLen }

/-- R196: in the Idle state a header alone with `exp > 0` is lost: no state is written and nothing is output. -/
def Obligations.IdleHeaderAloneIsLost : Prop :=
  ∀ (s : State) (i : Instr) (marker x exp : Byte), IsDelivery i [marker, x, exp] → s.bufLen = 0 → exp ≠ 0 →
    exec i s = .next s

/-- R197: in the Idle state a first fragment with exactly the expected payload is dispatched at once; no state is
written. -/
def Obligations.IdleCompletePayloadIsDispatched : Prop :=
  ∀ (s : State) (i : Instr) (marker x exp : Byte) (init : Bytes), IsDelivery i (marker :: x :: exp :: init) →
    s.bufLen = 0 → init.length = exp.toNat →
    exec i s = .next { s with outbox := s.outbox ++ [.dispatch (marker - 0x40) init] }

/-- R198: in the Idle state a first fragment with more than the expected payload is dropped whole with
`LENGTH_MISMATCH`; no state is written. -/
def Obligations.IdleOverlongPayloadIsDropped : Prop :=
  ∀ (s : State) (i : Instr) (marker x exp : Byte) (init : Bytes), IsDelivery i (marker :: x :: exp :: init) →
    s.bufLen = 0 → exp.toNat < init.length →
    exec i s = .next { s with outbox := s.outbox ++ [.diag (.lengthMismatch exp.toNat init.length)] }

/-- R200: in the Accumulating state a fragment that leaves the payload incomplete is appended verbatim at `BUF_LEN`;
`PEND_SLOT` and `EXP_LEN` keep their values, nothing is output, and every byte of the buffer outside the appended ones
reads as before; an empty one changes nothing at all. -/
def Obligations.ContinuationIsAppended : Prop :=
  (∀ (s : State) (i : Instr) (f : Bytes) (exp : Byte), IsDelivery i f → s.bufLen ≠ 0 → s.expLen = some exp →
    s.bufLen.toNat + f.length < exp.toNat →
    ∃ t, exec i s = .next t ∧ t.bufLen.toNat = s.bufLen.toNat + f.length ∧
      (∀ k < f.length, t.buf.read (s.bufLen.toNat + k) = f[k]?) ∧
      (∀ a, (a < s.bufLen.toNat ∨ s.bufLen.toNat + f.length ≤ a) → t.buf.read a = s.buf.read a) ∧
      t = { s with buf := t.buf, bufLen := t.bufLen }) ∧
  (∀ (s : State) (i : Instr), IsDelivery i [] → s.Inv → s.bufLen ≠ 0 → exec i s = .next s)

/-- R201: in the Accumulating state a fragment that completes the payload dispatches `(PEND_SLOT, acc)`, where `acc` is
the held prefix of the buffer followed by the fragment, and clears the state; nothing else changes. -/
def Obligations.ContinuationCompletesAndDispatches : Prop :=
  ∀ (s : State) (i : Instr) (f : Bytes) (exp : Byte), IsDelivery i f → s.Inv → s.bufLen ≠ 0 → s.expLen = some exp →
    s.bufLen.toNat + f.length = exp.toNat →
    ∃ slot held, s.pendSlot = some slot ∧ held.length = s.bufLen.toNat ∧
      (∀ k < s.bufLen.toNat, held[k]? = s.buf.read k) ∧
      exec i s = .next
        { s with bufLen := 0, pendSlot := none, expLen := none, outbox := s.outbox ++ [.dispatch slot (held ++ f)] }

/-- R202: in the Accumulating state a fragment that exceeds the expected length drops old and new bytes, reports
`LENGTH_MISMATCH` with both lengths as natural numbers, and clears the state; nothing else changes. -/
def Obligations.ContinuationOverflowIsDropped : Prop :=
  ∀ (s : State) (i : Instr) (f : Bytes) (exp : Byte), IsDelivery i f → s.bufLen ≠ 0 → s.expLen = some exp →
    exp.toNat < s.bufLen.toNat + f.length →
    exec i s = .next
      { s with
        bufLen := 0, pendSlot := none, expLen := none
        outbox := s.outbox ++ [.diag (.lengthMismatch exp.toNat (s.bufLen.toNat + f.length))] }

/-- R203: `RX_RESET` clears the reassembly state and outputs nothing; everything else, the buffer's bytes among it,
stays; in the Idle state it has no effect. -/
def Obligations.RxResetClearsReassembly : Prop :=
  (∀ s : State, exec .rxReset s = .next { s with bufLen := 0, pendSlot := none, expLen := none }) ∧
  (∀ s : State, s.Inv → s.bufLen = 0 → exec .rxReset s = .next s)

/-- R190: no fragment can fault the reassembler, stall it, or leave its state outside the invariant; a step presents at
most one `DISPATCH` and at most one `DIAG`, never both, and nothing on `TX` or `HOST`; the encoder's registers are
untouched. The two labels of a delivery are one operation (log entry 7). -/
def Obligations.FragmentsAreTotalAndQuiet : Prop :=
  ∀ (s : State) (f : Bytes), s.Inv →
    ∃ t out, exec (.firstFragment f) s = .next t ∧ exec (.continuationFragment f) s = .next t ∧ t.Inv ∧
      t.outbox = s.outbox ++ out ∧ (dispatches out).length + (diagnostics out).length ≤ 1 ∧
      txChunks out = [] ∧ hostResults out = [] ∧
      t.crcReg = s.crcReg ∧ t.clientId = s.clientId ∧ t.clientSlot = s.clientSlot ∧ t.inbox = s.inbox

/-- R213: the complete transition relation of `RX_STATE`: Idle to Accumulating exactly by a fragment with some but not
all of its payload (R195); Accumulating to Idle exactly by `RX_RESET` or a fragment that reaches or exceeds the expected
length (R201, R202). -/
def Obligations.RxStateTransitions : Prop :=
  ∀ (i : Instr) (s t : State), s.Inv → exec i s = .next t →
    (s.rxState = .idle → (t.rxState = .accumulating ↔
      ∃ f exp, IsDelivery i f ∧ f[2]? = some exp ∧ 3 < f.length ∧ f.length - 3 < exp.toNat)) ∧
    (s.rxState = .accumulating → (t.rxState = .idle ↔
      i = .rxReset ∨ ∃ f exp, IsDelivery i f ∧ s.expLen = some exp ∧ exp.toNat ≤ s.bufLen.toNat + f.length))

/-- R205: only a fragment or `RX_RESET` changes the reassembly state. That steps without input leave the state as it is,
so that a partial notification is held for any number of them, is the model's choice of what such a step does (log
entry 5). -/
def Obligations.OnlyFragmentsAndResetTouchReassembly : Prop :=
  (∀ (i : Instr) (s t : State), exec i s = .next t → i.isFragment = false → i ≠ .rxReset →
    t.buf = s.buf ∧ t.bufLen = s.bufLen ∧ t.pendSlot = s.pendSlot ∧ t.expLen = s.expLen) ∧
  (∀ (s : State) (n : Nat), s.inbox = [] → core.run n s = .next s)

/-- The outputs only grow and no operation takes an input of its own: the model's two queues are touched by nothing but
the step and the ports (log entry 5). -/
def Obligations.OperationsOnlyAppendOutputs : Prop :=
  ∀ (i : Instr) (s t : State), exec i s = .next t → t.inbox = s.inbox ∧ s.outbox <+: t.outbox

/-- Independence of the two directions (the content of R66, which the spec derives): an operation of the encoder's side
and one of the reassembler's side give the same registers and the same traffic on every port in either order, whichever of
the two orders is known to complete. -/
def Obligations.EncoderAndReassemblerCommute : Prop :=
  ∀ (i j : Instr) (s t u : State), IsEncoderSide i → ¬ IsEncoderSide j →
    (exec i s = .next t → exec j t = .next u →
      ∃ t' u', exec j s = .next t' ∧ exec i t' = .next u' ∧ SamePerPort u u') ∧
    (exec j s = .next t → exec i t = .next u →
      ∃ t' u', exec i s = .next t' ∧ exec j t' = .next u' ∧ SamePerPort u u')

/-- Headline: reassembly equivalence (R207, which the spec derives). From Idle, a payload delivered as a first fragment
with a non-empty piece and continuations gives, over as many steps of the machine as there are pieces, exactly the one
output that its delivery in one fragment gives, presented at the last piece and at no earlier one, and ends Idle. The
last piece is taken non-empty: where it is empty the payload is complete before it, and it is then itself read in the
Idle state and dropped as a short fragment (R201, R192), which R207 overlooks (log entry 12). -/
def Obligations.SplitPayloadIsDispatchedOnce : Prop :=
  ∀ (s : State) (marker x : Byte) (p0 last : Bytes) (mid : List Bytes) (payload : Bytes),
    s.bufLen = 0 → p0 ≠ [] → last ≠ [] → payload = p0 ++ mid.flatten ++ last → payload.length ≤ 255 →
    s.inbox = .frag (marker :: x :: BitVec.ofNat 8 payload.length :: p0) :: (mid.map .frag ++ [.frag last]) →
    (∃ t, core.run (mid.length + 1) s = .next t ∧ t.outbox = s.outbox) ∧
    (∃ t, core.run (mid.length + 2) s = .next t ∧
      t = { s with buf := t.buf, bufLen := 0, pendSlot := none, expLen := none, inbox := [],
                   outbox := s.outbox ++ [.dispatch (marker - 0x40) payload] }) ∧
    exec (.firstFragment (marker :: x :: BitVec.ofNat 8 payload.length :: payload)) s =
      .next { s with outbox := s.outbox ++ [.dispatch (marker - 0x40) payload] }

/-- What follows an empty last piece (see log entry 12): the completed payload leaves the machine Idle, where an empty
fragment is dropped as short (R201, R192). -/
def Obligations.EmptyPieceAfterCompletionIsShort : Prop :=
  ∀ (s t : State) (f : Bytes) (exp : Byte), s.Inv → s.bufLen ≠ 0 → s.expLen = some exp →
    s.bufLen.toNat + f.length = exp.toNat → exec (.continuationFragment f) s = .next t →
    exec (.firstFragment []) t = .next { t with outbox := t.outbox ++ [.diag (.shortFragment 0)] }

/-- R211, which the spec derives: a complete notification that arrives on top of a stale partial one is appended to it
as payload, header included and byte by byte, as long as the lengths stay below the old `EXP_LEN`. -/
def Obligations.StalePartialSwallowsNextNotification : Prop :=
  ∀ (s : State) (marker x : Byte) (payload : Bytes) (exp : Byte), s.bufLen ≠ 0 → s.expLen = some exp →
    s.bufLen.toNat + payload.length + 3 < exp.toNat →
    ∃ t, exec (.continuationFragment (marker :: x :: BitVec.ofNat 8 payload.length :: payload)) s = .next t ∧
      t.outbox = s.outbox ∧ t.pendSlot = s.pendSlot ∧ t.expLen = some exp ∧
      t.bufLen.toNat = s.bufLen.toNat + payload.length + 3 ∧
      (∀ k < payload.length + 3, t.buf.read (s.bufLen.toNat + k) =
        (marker :: x :: BitVec.ofNat 8 payload.length :: payload)[k]?) ∧
      ∀ a < s.bufLen.toNat, t.buf.read a = s.buf.read a

/-! ### The adjacent codecs, outside the block -/

/-- R230 in tenths of a degree, which the spec derives: `TEMP_ENCODE(t/10) = clamp(t - 256, 0, 255)`, whatever the free
tie rule. -/
def Obligations.TempEncodeOfTenths : Prop :=
  ∀ t : Int, tempEncode .a ((t : Rat) / 10) = BitVec.ofNat 8 (min (max (t - 256) 0) 255).toNat

/-- R231: `TEMP_DECODE` is total and gives `(256 + byte) / 10` degrees, 25.6 to 51.1. -/
def Obligations.TempDecodeOfBytes : Prop :=
  (∀ b : Byte, tempDecode .a b = (256 + (b.toNat : Rat)) / 10) ∧
  tempDecode .a 0x32 = 306 / 10 ∧ tempDecode .a 0x28 = 296 / 10 ∧ tempDecode .a 0x00 = 256 / 10 ∧
  tempDecode .a 0xFF = 511 / 10

/-- R233: for every temperature in the encodable range of its mapping, `|decode(encode(c)) - c| <= 0.1`, whatever the
free tie rule. -/
def Obligations.TempRoundTripWithinTenth : Prop :=
  ∀ (m : TempMap) (c : Rat), tempDecode m 0x00 ≤ c → c ≤ tempDecode m 0xFF →
    |tempDecode m (tempEncode m c) - c| ≤ 1 / 10

/-- R246: exactly the payloads of a length outside `{1, 2, 4, 10, 11, 16, 20, 24}`, and those of length 11 with a
discriminant outside `{0x00, 0x01, 0x04, 0x08, 0x80}`, give no event. -/
def Obligations.UnlistedPayloadsGiveNoEvent : Prop :=
  ∀ (m : TempMap) (slot : Byte) (p : Bytes), decodePayload m slot p = .noEvent ↔
    (p.length ∉ [1, 2, 4, 10, 11, 16, 20, 24] ∨ (p.length = 11 ∧ ∀ b ∈ p.head?, b ∉ [0x00, 0x01, 0x04, 0x08, 0x80]))

/-- R235 to R241: the fields of the events without text; the client slot goes with the event (R234). -/
def Obligations.FixedLayoutEvents : Prop :=
  ∀ (m : TempMap) (slot b0 b1 b2 b3 b4 b5 b6 b7 b8 b9 b10 b11 b12 b13 b14 b15 : Byte),
    decodePayload m slot [b0] = .event slot (.successOrFailure b0) ∧
    decodePayload m slot [b0, b1] = .event slot (.slots
      ((List.range 16).filter fun i => if i < 8 then b1.getLsbD i else b0.getLsbD (i - 8))) ∧
    decodePayload m slot [b0, b1, b2, b3] = .event slot (.deviceSettings
      ((List.range 8).filter fun i => b1.getLsbD i) b2 ((List.range 8).filter fun i => b3.getLsbD i)) ∧
    decodePayload m slot [b0, b1, b2, b3, b4, b5, b6, b7, b8, b9] = .event slot (.deviceState b0 (tempDecode m b2)
      (tempDecode m b4) (b5 == 0x64) (b6 == 0x64) (b7.toNat * 256 + b8.toNat) b9) ∧
    (b0 ∈ [0x01, 0x80] → decodePayload m slot [b0, b1, b2, b3, b4, b5, b6, b7, b8, b9, b10] =
      .event slot (.controlsOperated (b0 == 1) b1 (tempDecode m b3) (tempDecode m b5) (b6 == 0x64) (b7 == 0x64)
        (b8.toNat * 256 + b9.toNat) b10)) ∧
    (b0 ∈ [0x00, 0x04, 0x08] → decodePayload m slot [b0, b1, b2, b3, b4, b5, b6, b7, b8, b9, b10] =
      .event slot (.outletSettings b0 b4 (tempDecode m b6) (tempDecode m b8) b10)) ∧
    (b0 = 0 → decodePayload m slot [b0, b1, b2, b3, b4, b5, b6, b7, b8, b9, b10, b11, b12, b13, b14, b15] =
      .event slot (.technicalInformation b1 b3 b5 b7 b15))

/-- R245 on text: the decoder's UTF-8 is the inverse of the standard encoding of characters, so a well-formed text field
is decoded to its characters (what UTF-8 is comes from outside the spec; log entry 13). -/
def Obligations.WellFormedTextIsDecoded : Prop :=
  ∀ cs : List Char, utf8 (textBytes cs) = some cs

/-- R242 to R245: the payloads that carry text, of length 16 with a first byte other than 0, of length 20 and of length
24, give their event where the text field is the UTF-8 encoding of some characters, and the decode error where it is
the encoding of none (what UTF-8 is: log entry 13). -/
def Obligations.TextPayloadsDecodeOrFail : Prop :=
  ∀ (m : TempMap) (slot : Byte) (text : Bytes),
    (∀ cs, text = textBytes cs →
      (text.length = 16 → text.head? ≠ some 0 → decodePayload m slot text = .event slot (.nickname cs)) ∧
      (text.length = 20 → decodePayload m slot text = .event slot (.clientDetails cs)) ∧
      (text.length = 16 → ∀ b0 b1 b2 b3 b4 b5 b6 b7 : Byte,
        decodePayload m slot ([b0, b1, b2, b3, b4, b5, b6, b7] ++ text) = .event slot (.presetDetails b0 (tempDecode m b2)
          b4 ((List.range 8).filter fun i => b5.getLsbD i) cs))) ∧
    ((∀ cs, text ≠ textBytes cs) →
      (text.length = 16 → text.head? ≠ some 0 → decodePayload m slot text = .decodeError) ∧
      (text.length = 20 → decodePayload m slot text = .decodeError) ∧
      (text.length = 16 → ∀ head : Bytes, head.length = 8 → decodePayload m slot (head ++ text) = .decodeError))

/-- R234, R264 to R266: the listener is handed an event with the client slot it was dispatched with; an unknown status is
surfaced as an error, code 6, with the status byte, in place of its event (log entry 15), a decode error as code 5, and a
payload without an event as nothing, code 4 (the codes of R260). -/
def Obligations.ListenerIsHandedEventsAndErrors : Prop :=
  (∀ (m : TempMap) (slot slot' : Byte) (p : Bytes) (e : Event), decodePayload m slot p = .event slot' e →
    slot' = slot ∧ ∀ other, decodePayload m other p = .event other e) ∧
  (∀ (m : TempMap) (slot status : Byte),
    (status ∈ [Config.statusSuccess, Config.statusFailure] →
      surface (decodePayload m slot [status]) = .event slot (.successOrFailure status)) ∧
    (status ∉ [Config.statusSuccess, Config.statusFailure] →
      surface (decodePayload m slot [status]) = .unknownStatus status ∧
      (surface (decodePayload m slot [status])).code = some 6)) ∧
  (∀ (m : TempMap) (slot : Byte) (p : Bytes), p.length ≠ 1 →
    (∀ e, decodePayload m slot p = .event slot e → surface (decodePayload m slot p) = .event slot e) ∧
    (decodePayload m slot p = .decodeError → (surface (decodePayload m slot p)).code = some 5) ∧
    (decodePayload m slot p = .noEvent → (surface (decodePayload m slot p)).code = some 4))

/-- R12: an environment whose deliveries keep to a bound `FRAG_MAX` keeps to it at every step, whatever the bound; at the
default of `FRAG_MAX` every environment does. -/
def Obligations.StepKeepsTheDeliveryBound : Prop :=
  (∀ (fragMax : Option Nat) (s t : State), s.Deliverable fragMax → step s = .next t → t.Deliverable fragMax) ∧
  (∀ s : State, s.Deliverable)
end

