-- ==== Sys2Proof/Laws/Decode.lean ====
section
/-! SUPPORT. The laws of the padded name field and of the bytes of a word. -/

namespace Sys2Proof

theorem stripPad_replicate (k : Nat) : stripPad (List.replicate k 0#8) = [] := by
  induction k with
  | zero => rfl
  | succ k ih => simp only [List.replicate_succ, stripPad, ih]; rfl

/-- Padding on the right is dropped. -/
theorem stripPad_append_pad (n : Bytes) (k : Nat) : stripPad (n ++ List.replicate k 0#8) = stripPad n := by
  induction n with
  | nil => exact stripPad_replicate k
  | cons b bs ih => simp only [List.cons_append, stripPad, ih]

theorem stripPad_length_le (n : Bytes) : (stripPad n).length ≤ n.length := by
  induction n with
  | nil => simp [stripPad]
  | cons b bs ih =>
    simp only [stripPad]
    split
    · split <;> simp
    · next h =>
      rw [h] at ih
      simpa using ih

/-- A field is its stripped name and its padding. -/
theorem stripPad_append_missing (n : Bytes) :
    stripPad n ++ List.replicate (n.length - (stripPad n).length) 0#8 = n := by
  induction n with
  | nil => rfl
  | cons b bs ih =>
    simp only [stripPad]
    split
    · next h =>
      rw [h] at ih
      simp only [List.length_nil, Nat.sub_zero, List.nil_append] at ih
      split
      · next hb => simp [hb, List.replicate_succ, ih]
      · simp [ih]
    · next h =>
      rw [h] at ih
      simpa using ih

/-- What is read from a field is a name the encoding determines. -/
theorem stripPad_idem (n : Bytes) : stripPad (stripPad n) = stripPad n := by
  conv_rhs => rw [← stripPad_append_missing n]
  rw [stripPad_append_pad]

/-- A word is its four bytes, most significant first. -/
theorem word_eq_bytes (v : Word) :
    v.extractLsb' 24 8 ++ v.extractLsb' 16 8 ++ v.extractLsb' 8 8 ++ v.extractLsb' 0 8 = v := by
  apply BitVec.eq_of_getLsbD_eq
  intro i hi
  interval_cases i <;> simp only [BitVec.getLsbD_append, BitVec.getLsbD_extractLsb'] <;> rfl

end Sys2Proof
end

