-- ==== Sys2Proof/Laws/State.lean ====
section
/-! SUPPORT. One lemma per field per update of the state, all true by `rfl`. -/

namespace Sys2Proof.Machine

@[simp] theorem State.emit_crcReg (s : State) (out : List Output) : (s.emit out).crcReg = s.crcReg := rfl
@[simp] theorem State.emit_clientId (s : State) (out : List Output) : (s.emit out).clientId = s.clientId := rfl
@[simp] theorem State.emit_clientSlot (s : State) (out : List Output) : (s.emit out).clientSlot = s.clientSlot := rfl
@[simp] theorem State.emit_buf (s : State) (out : List Output) : (s.emit out).buf = s.buf := rfl
@[simp] theorem State.emit_bufLen (s : State) (out : List Output) : (s.emit out).bufLen = s.bufLen := rfl
@[simp] theorem State.emit_pendSlot (s : State) (out : List Output) : (s.emit out).pendSlot = s.pendSlot := rfl
@[simp] theorem State.emit_expLen (s : State) (out : List Output) : (s.emit out).expLen = s.expLen := rfl
@[simp] theorem State.emit_inbox (s : State) (out : List Output) : (s.emit out).inbox = s.inbox := rfl
@[simp] theorem State.emit_outbox (s : State) (out : List Output) : (s.emit out).outbox = s.outbox ++ out := rfl

@[simp] theorem State.raise_crcReg (s : State) (c : Cause) : (s.raise c).crcReg = s.crcReg := rfl
@[simp] theorem State.raise_clientId (s : State) (c : Cause) : (s.raise c).clientId = s.clientId := rfl
@[simp] theorem State.raise_clientSlot (s : State) (c : Cause) : (s.raise c).clientSlot = s.clientSlot := rfl
@[simp] theorem State.raise_buf (s : State) (c : Cause) : (s.raise c).buf = s.buf := rfl
@[simp] theorem State.raise_bufLen (s : State) (c : Cause) : (s.raise c).bufLen = s.bufLen := rfl
@[simp] theorem State.raise_pendSlot (s : State) (c : Cause) : (s.raise c).pendSlot = s.pendSlot := rfl
@[simp] theorem State.raise_expLen (s : State) (c : Cause) : (s.raise c).expLen = s.expLen := rfl
@[simp] theorem State.raise_inbox (s : State) (c : Cause) : (s.raise c).inbox = s.inbox := rfl
@[simp] theorem State.raise_outbox (s : State) (c : Cause) : (s.raise c).outbox = s.outbox ++ [c.report] := rfl

@[simp] theorem State.sendChunks_crcReg (s : State) (f : Bytes) : (s.sendChunks f).crcReg = s.crcReg := rfl
@[simp] theorem State.sendChunks_clientId (s : State) (f : Bytes) : (s.sendChunks f).clientId = s.clientId := rfl
@[simp] theorem State.sendChunks_clientSlot (s : State) (f : Bytes) : (s.sendChunks f).clientSlot = s.clientSlot := rfl
@[simp] theorem State.sendChunks_buf (s : State) (f : Bytes) : (s.sendChunks f).buf = s.buf := rfl
@[simp] theorem State.sendChunks_bufLen (s : State) (f : Bytes) : (s.sendChunks f).bufLen = s.bufLen := rfl
@[simp] theorem State.sendChunks_pendSlot (s : State) (f : Bytes) : (s.sendChunks f).pendSlot = s.pendSlot := rfl
@[simp] theorem State.sendChunks_expLen (s : State) (f : Bytes) : (s.sendChunks f).expLen = s.expLen := rfl
@[simp] theorem State.sendChunks_inbox (s : State) (f : Bytes) : (s.sendChunks f).inbox = s.inbox := rfl
@[simp] theorem State.sendChunks_outbox (s : State) (f : Bytes) : (s.sendChunks f).outbox = s.outbox ++ ((chunks Config.chunkSize f).map .tx ++ [.ok]) := rfl

@[simp] theorem State.runChecksum_crcReg (s : State) (p : Bytes) (salt : Word) : (s.runChecksum p salt).crcReg = checksum p salt := rfl
@[simp] theorem State.runChecksum_clientId (s : State) (p : Bytes) (salt : Word) : (s.runChecksum p salt).clientId = s.clientId := rfl
@[simp] theorem State.runChecksum_clientSlot (s : State) (p : Bytes) (salt : Word) : (s.runChecksum p salt).clientSlot = s.clientSlot := rfl
@[simp] theorem State.runChecksum_buf (s : State) (p : Bytes) (salt : Word) : (s.runChecksum p salt).buf = s.buf := rfl
@[simp] theorem State.runChecksum_bufLen (s : State) (p : Bytes) (salt : Word) : (s.runChecksum p salt).bufLen = s.bufLen := rfl
@[simp] theorem State.runChecksum_pendSlot (s : State) (p : Bytes) (salt : Word) : (s.runChecksum p salt).pendSlot = s.pendSlot := rfl
@[simp] theorem State.runChecksum_expLen (s : State) (p : Bytes) (salt : Word) : (s.runChecksum p salt).expLen = s.expLen := rfl
@[simp] theorem State.runChecksum_inbox (s : State) (p : Bytes) (salt : Word) : (s.runChecksum p salt).inbox = s.inbox := rfl
@[simp] theorem State.runChecksum_outbox (s : State) (p : Bytes) (salt : Word) : (s.runChecksum p salt).outbox = s.outbox := rfl

@[simp] theorem State.writeClientId_crcReg (s : State) (v : Word) : (s.writeClientId v).crcReg = s.crcReg := rfl
@[simp] theorem State.writeClientId_clientId (s : State) (v : Word) : (s.writeClientId v).clientId = some v := rfl
@[simp] theorem State.writeClientId_clientSlot (s : State) (v : Word) : (s.writeClientId v).clientSlot = s.clientSlot := rfl
@[simp] theorem State.writeClientId_buf (s : State) (v : Word) : (s.writeClientId v).buf = s.buf := rfl
@[simp] theorem State.writeClientId_bufLen (s : State) (v : Word) : (s.writeClientId v).bufLen = s.bufLen := rfl
@[simp] theorem State.writeClientId_pendSlot (s : State) (v : Word) : (s.writeClientId v).pendSlot = s.pendSlot := rfl
@[simp] theorem State.writeClientId_expLen (s : State) (v : Word) : (s.writeClientId v).expLen = s.expLen := rfl
@[simp] theorem State.writeClientId_inbox (s : State) (v : Word) : (s.writeClientId v).inbox = s.inbox := rfl
@[simp] theorem State.writeClientId_outbox (s : State) (v : Word) : (s.writeClientId v).outbox = s.outbox := rfl

@[simp] theorem State.writeClientSlot_crcReg (s : State) (v : Byte) : (s.writeClientSlot v).crcReg = s.crcReg := rfl
@[simp] theorem State.writeClientSlot_clientId (s : State) (v : Byte) : (s.writeClientSlot v).clientId = s.clientId := rfl
@[simp] theorem State.writeClientSlot_clientSlot (s : State) (v : Byte) : (s.writeClientSlot v).clientSlot = some v := rfl
@[simp] theorem State.writeClientSlot_buf (s : State) (v : Byte) : (s.writeClientSlot v).buf = s.buf := rfl
@[simp] theorem State.writeClientSlot_bufLen (s : State) (v : Byte) : (s.writeClientSlot v).bufLen = s.bufLen := rfl
@[simp] theorem State.writeClientSlot_pendSlot (s : State) (v : Byte) : (s.writeClientSlot v).pendSlot = s.pendSlot := rfl
@[simp] theorem State.writeClientSlot_expLen (s : State) (v : Byte) : (s.writeClientSlot v).expLen = s.expLen := rfl
@[simp] theorem State.writeClientSlot_inbox (s : State) (v : Byte) : (s.writeClientSlot v).inbox = s.inbox := rfl
@[simp] theorem State.writeClientSlot_outbox (s : State) (v : Byte) : (s.writeClientSlot v).outbox = s.outbox := rfl

@[simp] theorem State.openNotification_crcReg (s : State) (n : Nat) (slot exp : Byte) : (s.openNotification n slot exp).crcReg = s.crcReg := rfl
@[simp] theorem State.openNotification_clientId (s : State) (n : Nat) (slot exp : Byte) : (s.openNotification n slot exp).clientId = s.clientId := rfl
@[simp] theorem State.openNotification_clientSlot (s : State) (n : Nat) (slot exp : Byte) : (s.openNotification n slot exp).clientSlot = s.clientSlot := rfl
@[simp] theorem State.openNotification_buf (s : State) (n : Nat) (slot exp : Byte) : (s.openNotification n slot exp).buf = s.buf := rfl
@[simp] theorem State.openNotification_bufLen (s : State) (n : Nat) (slot exp : Byte) : (s.openNotification n slot exp).bufLen = BitVec.ofNat 8 n := rfl
@[simp] theorem State.openNotification_pendSlot (s : State) (n : Nat) (slot exp : Byte) : (s.openNotification n slot exp).pendSlot = some slot := rfl
@[simp] theorem State.openNotification_expLen (s : State) (n : Nat) (slot exp : Byte) : (s.openNotification n slot exp).expLen = some exp := rfl
@[simp] theorem State.openNotification_inbox (s : State) (n : Nat) (slot exp : Byte) : (s.openNotification n slot exp).inbox = s.inbox := rfl
@[simp] theorem State.openNotification_outbox (s : State) (n : Nat) (slot exp : Byte) : (s.openNotification n slot exp).outbox = s.outbox := rfl

@[simp] theorem State.extendNotification_crcReg (s : State) (n : Nat) : (s.extendNotification n).crcReg = s.crcReg := rfl
@[simp] theorem State.extendNotification_clientId (s : State) (n : Nat) : (s.extendNotification n).clientId = s.clientId := rfl
@[simp] theorem State.extendNotification_clientSlot (s : State) (n : Nat) : (s.extendNotification n).clientSlot = s.clientSlot := rfl
@[simp] theorem State.extendNotification_buf (s : State) (n : Nat) : (s.extendNotification n).buf = s.buf := rfl
@[simp] theorem State.extendNotification_bufLen (s : State) (n : Nat) : (s.extendNotification n).bufLen = BitVec.ofNat 8 n := rfl
@[simp] theorem State.extendNotification_pendSlot (s : State) (n : Nat) : (s.extendNotification n).pendSlot = s.pendSlot := rfl
@[simp] theorem State.extendNotification_expLen (s : State) (n : Nat) : (s.extendNotification n).expLen = s.expLen := rfl
@[simp] theorem State.extendNotification_inbox (s : State) (n : Nat) : (s.extendNotification n).inbox = s.inbox := rfl
@[simp] theorem State.extendNotification_outbox (s : State) (n : Nat) : (s.extendNotification n).outbox = s.outbox := rfl

@[simp] theorem State.clearReassembly_crcReg (s : State) : s.clearReassembly.crcReg = s.crcReg := rfl
@[simp] theorem State.clearReassembly_clientId (s : State) : s.clearReassembly.clientId = s.clientId := rfl
@[simp] theorem State.clearReassembly_clientSlot (s : State) : s.clearReassembly.clientSlot = s.clientSlot := rfl
@[simp] theorem State.clearReassembly_buf (s : State) : s.clearReassembly.buf = s.buf := rfl
@[simp] theorem State.clearReassembly_bufLen (s : State) : s.clearReassembly.bufLen = 0 := rfl
@[simp] theorem State.clearReassembly_pendSlot (s : State) : s.clearReassembly.pendSlot = none := rfl
@[simp] theorem State.clearReassembly_expLen (s : State) : s.clearReassembly.expLen = none := rfl
@[simp] theorem State.clearReassembly_inbox (s : State) : s.clearReassembly.inbox = s.inbox := rfl
@[simp] theorem State.clearReassembly_outbox (s : State) : s.clearReassembly.outbox = s.outbox := rfl

@[simp] theorem State.takeInput_crcReg (s : State) (rest : List Input) : (s.takeInput rest).crcReg = s.crcReg := rfl
@[simp] theorem State.takeInput_clientId (s : State) (rest : List Input) : (s.takeInput rest).clientId = s.clientId := rfl
@[simp] theorem State.takeInput_clientSlot (s : State) (rest : List Input) : (s.takeInput rest).clientSlot = s.clientSlot := rfl
@[simp] theorem State.takeInput_buf (s : State) (rest : List Input) : (s.takeInput rest).buf = s.buf := rfl
@[simp] theorem State.takeInput_bufLen (s : State) (rest : List Input) : (s.takeInput rest).bufLen = s.bufLen := rfl
@[simp] theorem State.takeInput_pendSlot (s : State) (rest : List Input) : (s.takeInput rest).pendSlot = s.pendSlot := rfl
@[simp] theorem State.takeInput_expLen (s : State) (rest : List Input) : (s.takeInput rest).expLen = s.expLen := rfl
@[simp] theorem State.takeInput_inbox (s : State) (rest : List Input) : (s.takeInput rest).inbox = rest := rfl
@[simp] theorem State.takeInput_outbox (s : State) (rest : List Input) : (s.takeInput rest).outbox = s.outbox := rfl

@[simp] theorem buildAndSend_crcReg (dest op : Byte) (args : Bytes) (salt : Word) (s : State) :
    (buildAndSend dest op args salt s).crcReg = checksum (frameFields dest op args) salt := by
  simp only [buildAndSend, State.sendChunks_crcReg, State.runChecksum_crcReg]
@[simp] theorem buildAndSend_clientId (dest op : Byte) (args : Bytes) (salt : Word) (s : State) :
    (buildAndSend dest op args salt s).clientId = s.clientId := rfl
@[simp] theorem buildAndSend_clientSlot (dest op : Byte) (args : Bytes) (salt : Word) (s : State) :
    (buildAndSend dest op args salt s).clientSlot = s.clientSlot := rfl
@[simp] theorem buildAndSend_buf (dest op : Byte) (args : Bytes) (salt : Word) (s : State) :
    (buildAndSend dest op args salt s).buf = s.buf := rfl
@[simp] theorem buildAndSend_bufLen (dest op : Byte) (args : Bytes) (salt : Word) (s : State) :
    (buildAndSend dest op args salt s).bufLen = s.bufLen := rfl
@[simp] theorem buildAndSend_pendSlot (dest op : Byte) (args : Bytes) (salt : Word) (s : State) :
    (buildAndSend dest op args salt s).pendSlot = s.pendSlot := rfl
@[simp] theorem buildAndSend_expLen (dest op : Byte) (args : Bytes) (salt : Word) (s : State) :
    (buildAndSend dest op args salt s).expLen = s.expLen := rfl
@[simp] theorem buildAndSend_inbox (dest op : Byte) (args : Bytes) (salt : Word) (s : State) :
    (buildAndSend dest op args salt s).inbox = s.inbox := rfl
@[simp] theorem buildAndSend_outbox (dest op : Byte) (args : Bytes) (salt : Word) (s : State) :
    (buildAndSend dest op args salt s).outbox = s.outbox ++ ((chunks Config.chunkSize (frame dest op args salt)).map .tx ++ [.ok]) := by
  simp only [buildAndSend, State.sendChunks_outbox, State.runChecksum_outbox, State.runChecksum_crcReg, frame]

/-- `BUILD_AND_SEND` as one update of the state (R141). -/
theorem buildAndSend_eq (dest op : Byte) (args : Bytes) (salt : Word) (s : State) :
    buildAndSend dest op args salt s =
      { s with
        crcReg := checksum (frameFields dest op args) salt
        outbox := s.outbox ++ ((chunks Config.chunkSize (frame dest op args salt)).map .tx ++ [.ok]) } := by
  apply State.ext <;> simp only [buildAndSend_crcReg, buildAndSend_clientId, buildAndSend_clientSlot, buildAndSend_buf,
    buildAndSend_bufLen, buildAndSend_pendSlot, buildAndSend_expLen, buildAndSend_inbox, buildAndSend_outbox]

end Sys2Proof.Machine
end

