-- ==== Sys2Proof/Laws/Memory.lean ====
section
/-! SUPPORT. The laws of the reassembly buffer: a read after a write, and the canonical form kept. -/

namespace Sys2Proof.Machine

theorem Memory.read_write_same (m : Memory) (a : Nat) (v : Byte) : (m.write a v).read a = some v := by
  induction m with
  | nil => simp [Memory.write, Memory.read]
  | cons c m ih =>
    obtain ⟨k, b⟩ := c
    simp only [Memory.write]
    split
    · simp [Memory.read]
    · split
      · simp [Memory.read]
      · next _ h => simp [Memory.read, h, ih]

theorem Memory.read_write_other (m : Memory) (a k : Nat) (v : Byte) (h : k ≠ a) :
    (m.write a v).read k = m.read k := by
  induction m with
  | nil => simp [Memory.write, Memory.read, h]
  | cons c m ih =>
    obtain ⟨j, b⟩ := c
    simp only [Memory.write]
    split
    · simp [Memory.read, h]
    · split
      · next _ e => subst e; simp [Memory.read, h]
      · by_cases hk : k = j
        · simp [Memory.read, hk]
        · simp [Memory.read, hk, ih]

/-- Reading one byte after writing one. -/
theorem Memory.read_write (m : Memory) (a k : Nat) (v : Byte) :
    (m.write a v).read k = if k = a then some v else m.read k := by
  split
  · next h => subst h; exact m.read_write_same k v
  · next h => exact m.read_write_other a k v h

/-- Reading one byte after writing a string: its byte inside the string, the old one outside. -/
theorem Memory.read_writeBytes (bs : Bytes) (m : Memory) (a k : Nat) :
    (m.writeBytes a bs).read k = if a ≤ k ∧ k < a + bs.length then bs[k - a]? else m.read k := by
  induction bs generalizing m a with
  | nil => simp [Memory.writeBytes]
  | cons b bs ih =>
    rw [Memory.writeBytes, ih, Memory.read_write]
    by_cases h1 : k = a
    · subst h1; simp
    · by_cases h2 : a + 1 ≤ k
      · have h3 : k - a = (k - (a + 1)) + 1 := by omega
        by_cases h4 : k < a + 1 + bs.length
        · have h5 : a ≤ k ∧ k < a + (bs.length + 1) := by omega
          simp [h2, h4, h5, h3]
        · have h5 : ¬(a ≤ k ∧ k < a + (bs.length + 1)) := by omega
          simp [h4, h5, h1]
      · have h5 : ¬(a ≤ k ∧ k < a + (bs.length + 1)) := by omega
        simp [h2, h5, h1]

theorem Memory.mem_write {m : Memory} {a : Nat} {v : Byte} {c : Host.Cell} (h : c ∈ m.write a v) :
    c = (a, v) ∨ c ∈ m := by
  induction m with
  | nil => simpa [Memory.write] using h
  | cons d m ih =>
    simp only [Memory.write] at h
    split at h
    · simpa using h
    · split at h
      · rcases List.mem_cons.1 h with h | h
        · exact .inl h
        · exact .inr (List.mem_cons_of_mem _ h)
      · rcases List.mem_cons.1 h with h | h
        · exact .inr (by simp [h])
        · rcases ih h with h | h
          · exact .inl h
          · exact .inr (List.mem_cons_of_mem _ h)

/-- Writing one byte inside the buffer keeps the canonical form. -/
theorem Memory.wf_write {m : Memory} (h : m.wf) {a : Nat} (ha : a < Config.bufCap) (v : Byte) : (m.write a v).wf := by
  refine ⟨?_, fun c hc => ?_⟩
  · have hp := h.1
    clear h
    induction m with
    | nil => simp [Memory.write]
    | cons c m ih =>
      obtain ⟨k, b⟩ := c
      rw [List.pairwise_cons] at hp
      simp only [Memory.write]
      split
      · next hk =>
        refine List.pairwise_cons.2 ⟨fun d hd => ?_, List.pairwise_cons.2 hp⟩
        rcases List.mem_cons.1 hd with rfl | hd
        · exact hk
        · exact Nat.lt_trans hk (hp.1 d hd)
      · split
        · next _ e => subst e; exact List.pairwise_cons.2 hp
        · refine List.pairwise_cons.2 ⟨fun d hd => ?_, ih hp.2⟩
          rcases Memory.mem_write hd with rfl | hd
          · show k < a
            omega
          · exact hp.1 d hd
  · rcases Memory.mem_write hc with rfl | hc
    · exact ha
    · exact h.2 c hc

/-- Writing a string inside the buffer keeps the canonical form. -/
theorem Memory.wf_writeBytes (bs : Bytes) {m : Memory} (h : m.wf) {a : Nat} (ha : a + bs.length ≤ Config.bufCap) :
    (m.writeBytes a bs).wf := by
  induction bs generalizing m a with
  | nil => exact h
  | cons b bs ih =>
    simp only [List.length_cons] at ha
    exact ih (Memory.wf_write h (by omega) b) (by omega)

/-- A prefix all of whose bytes are written reads as that many bytes, each the byte of its address. -/
theorem Memory.readBytes_written (m : Memory) (n a : Nat) (h : ∀ k < n, (m.read (a + k)).isSome) :
    ∃ bs, m.readBytes a n = .ok bs ∧ bs.length = n ∧ ∀ k < n, bs[k]? = m.read (a + k) := by
  induction n generalizing a with
  | zero => exact ⟨[], rfl, rfl, by simp⟩
  | succ n ih =>
    obtain ⟨b, hb⟩ := Option.isSome_iff_exists.1 (h 0 (by omega))
    obtain ⟨bs, h1, h2, h3⟩ := ih (a + 1) fun k hk => by
      have := h (k + 1) (by omega)
      rwa [show a + 1 + k = a + (k + 1) by omega]
    refine ⟨b :: bs, ?_, by simp [h2], fun k hk => ?_⟩
    · rw [Nat.add_zero] at hb
      simp [Memory.readBytes, hb, h1]
    · cases k with
      | zero => simpa using hb.symm
      | succ k =>
        rw [List.getElem?_cons_succ, h3 k (by omega)]
        congr 1
        omega

/-- What a read of the buffer gives depends on the buffer alone. -/
theorem memRead_congr {s t : State} (h : s.buf = t.buf) (a n : Nat) : memRead s a n = memRead t a n := by
  simp [memRead, h]

/-- Writing inside the 254 bytes. -/
theorem memWrite_inside (s : State) {a : Nat} {bs : Bytes} (h : a + bs.length ≤ Config.bufCap) :
    memWrite s a bs = .ok { s with buf := s.buf.writeBytes a bs } := by
  simp [memWrite, h]

/-- Reading a written prefix inside the 254 bytes. -/
theorem memRead_written (s : State) (n : Nat) (h : n ≤ Config.bufCap) (hw : ∀ k < n, (s.buf.read k).isSome) :
    ∃ bs, memRead s 0 n = .ok bs ∧ bs.length = n ∧ ∀ k < n, bs[k]? = s.buf.read k := by
  obtain ⟨bs, h1, h2, h3⟩ := s.buf.readBytes_written n 0 (by simpa using hw)
  exact ⟨bs, by simp [memRead, h, h1], h2, by simpa using h3⟩

end Sys2Proof.Machine
end

