-- ==== Sys2Proof/Laws/PayloadDecoder.lean ====
section
/-! SUPPORT. What the Payload Decoder and the listener's side answer, and the transport's bound. -/

namespace Sys2Proof.Machine

theorem textEvent_wellFormed {bs : Bytes} {cs : List Char} (h : utf8 bs = some cs) (slot : Byte)
    (mk : List Char → Event) : textEvent slot bs mk = .event slot (mk cs) := by
  simp only [textEvent, h]

theorem textEvent_malformed {bs : Bytes} (h : utf8 bs = none) (slot : Byte) (mk : List Char → Event) :
    textEvent slot bs mk = .decodeError := by
  simp only [textEvent, h]

/-- Length 20 is text (R243). -/
theorem decodePayload_clientDetails (m : TempMap) (slot : Byte) {p : Bytes} (h : p.length = 20) :
    decodePayload m slot p = textEvent slot p .clientDetails := by
  simp only [decodePayload, h]

/-- Length 16 with a first byte other than 0 is text (R242). -/
theorem decodePayload_nickname (m : TempMap) (slot : Byte) {p : Bytes} (h : p.length = 16) (h0 : p.head? ≠ some 0) :
    decodePayload m slot p = textEvent slot p .nickname := by
  match p, h with
  | b :: p, h =>
    simp only [decodePayload, h]
    exact if_neg fun hb => h0 (congrArg some hb)

/-- Length 24 carries text in its last 16 bytes (R244). -/
theorem decodePayload_presetDetails (m : TempMap) (slot : Byte) {p : Bytes} (h : p.length = 24) :
    decodePayload m slot p = textEvent slot (p.drop 8) (.presetDetails (payloadByte p 0)
      (tempDecode m (payloadByte p 2)) (payloadByte p 4) (bitIndices (payloadByte p 5))) := by
  simp only [decodePayload, h]

@[simp] theorem surface_noEvent : surface .noEvent = .nothing := rfl
@[simp] theorem surface_decodeError : surface .decodeError = .decodeError := rfl
@[simp] theorem surface_status (slot status : Byte) :
    surface (.event slot (.successOrFailure status)) =
      if unknownStatus status then .unknownStatus status else .event slot (.successOrFailure status) := rfl

@[simp] theorem transportAdmits_unbounded (f : Bytes) : transportAdmits none f = true := rfl
@[simp] theorem transportAdmits_bounded (n : Nat) (f : Bytes) : transportAdmits (some n) f = decide (f.length ≤ n) := rfl

end Sys2Proof.Machine
end

