-- ==== Sys2Proof/Laws/PerInstr.lean ====
section
/-! SUPPORT. Statements made constructor by constructor over the syntax of an operation. -/

namespace Sys2Proof.Laws.FrameLength

open Sys2Proof

/-- The frame lengths of R87. -/
def listed : Instr → Option Nat
  | .queryDeviceSettings | .queryDeviceState | .queryNickname | .queryOutletSettings => some 5
  | .queryClientSlots | .queryClientDetails _ | .queryPresetDetails _ | .queryPresetSlots | .queryTechnicalInfo
  | .unpairClient _ | .startPreset _ => some 6
  | .controlOutlets _ _ _ => some 10
  | .pairClient _ _ => some 29
  | .firstFragment _ | .continuationFragment _ | .setClientId _ | .setClientSlot _ | .rxReset => none

/-- The frame of a request, where it has one, is as long as R87 lists. -/
def Statement (i : Instr) : Prop :=
  ∀ n, listed i = some n → ∀ dest check f, encode dest check i = some f → f.length = n

theorem queryClientSlots : Statement .queryClientSlots := by simp [Statement, listed, encode, encodeArgs]
theorem queryClientDetails (n : Byte) : Statement (.queryClientDetails n) := by
  simp [Statement, listed, encode, encodeArgs]
theorem queryDeviceSettings : Statement .queryDeviceSettings := by simp [Statement, listed, encode, encodeArgs]
theorem queryDeviceState : Statement .queryDeviceState := by simp [Statement, listed, encode, encodeArgs]
theorem queryNickname : Statement .queryNickname := by simp [Statement, listed, encode, encodeArgs]
theorem queryOutletSettings : Statement .queryOutletSettings := by simp [Statement, listed, encode, encodeArgs]
theorem queryPresetDetails (n : Byte) : Statement (.queryPresetDetails n) := by
  simp [Statement, listed, encode, encodeArgs]
theorem queryPresetSlots : Statement .queryPresetSlots := by simp [Statement, listed, encode, encodeArgs]
theorem queryTechnicalInfo : Statement .queryTechnicalInfo := by simp [Statement, listed, encode, encodeArgs]
theorem pairClient (newId : Word) (name : Bytes) : Statement (.pairClient newId name) := by
  intro n hn dest check f hf
  simp only [listed, Option.some.injEq] at hn
  simp only [encode, encodeArgs] at hf
  split at hf
  · next h =>
    split at h
    · cases h
      cases hf
      simp
      omega
    · cases h
  · cases hf
theorem unpairClient (n : Byte) : Statement (.unpairClient n) := by simp [Statement, listed, encode, encodeArgs]
theorem controlOutlets (t : Byte) (o1 o2 : Bool) : Statement (.controlOutlets t o1 o2) := by
  simp [Statement, listed, encode, encodeArgs]
theorem startPreset (n : Byte) : Statement (.startPreset n) := by simp [Statement, listed, encode, encodeArgs]
theorem firstFragment (f : Bytes) : Statement (.firstFragment f) := by simp [Statement, listed]
theorem continuationFragment (f : Bytes) : Statement (.continuationFragment f) := by simp [Statement, listed]
theorem setClientId (v : Word) : Statement (.setClientId v) := by simp [Statement, listed]
theorem setClientSlot (v : Byte) : Statement (.setClientSlot v) := by simp [Statement, listed]
theorem rxReset : Statement .rxReset := by simp [Statement, listed]

end Sys2Proof.Laws.FrameLength
end

