-- ==== Sys2Proof/Laws/Requests.lean ====
section
/-! SUPPORT. What the Frame Encoder's shared procedures answer. -/

namespace Sys2Proof.Machine

/-- With both identity registers written, an authenticated request completes. -/
theorem authenticatedRequest_written {s : State} {id : Word} {slot : Byte} (hi : s.clientId = some id)
    (hs : s.clientSlot = some slot) (opcode : Byte) (args : Bytes) :
    authenticatedRequest opcode args s = .next (buildAndSend slot opcode args id s) := by
  simp only [authenticatedRequest, hi, hs]

/-- With an identity register unwritten, it faults. -/
theorem authenticatedRequest_unwritten {s : State} (h : s.clientId = none ∨ s.clientSlot = none) (opcode : Byte)
    (args : Bytes) : authenticatedRequest opcode args s = .fault (.unwrittenIdentity s.unwritten) := by
  unfold authenticatedRequest
  split
  · next hi hs => simp [hi, hs] at h
  · rfl

/-- Everything an authenticated request that completes can do. -/
theorem authenticatedRequest_next {opcode : Byte} {args : Bytes} {s t : State}
    (h : authenticatedRequest opcode args s = .next t) :
    ∃ id slot, s.clientId = some id ∧ s.clientSlot = some slot ∧ t = buildAndSend slot opcode args id s := by
  unfold authenticatedRequest at h
  split at h
  · next id slot hi hs =>
    cases h
    exact ⟨id, slot, hi, hs, rfl⟩
  · cases h

/-- Number of chunks against chunk offsets: chunk `i` exists exactly when its offset is inside the frame. -/
theorem chunk_count {size : Nat} (h : 1 ≤ size) (n i : Nat) : i < (n + size - 1) / size ↔ size * i < n := by
  rw [Nat.lt_iff_add_one_le, Nat.le_div_iff_mul_le h, Nat.add_one_mul, Nat.mul_comm]
  omega

/-- The first chunks of a frame are together its beginning. -/
theorem flatten_map_chunk (size : Nat) (f : Bytes) (n : Nat) :
    ((List.range n).map (chunk size f)).flatten = f.take (size * n) := by
  induction n with
  | zero => simp
  | succ n ih =>
    rw [List.range_succ, Nat.mul_succ, List.take_add]
    simp [ih, chunk]

/-- A frame of at most 20 bytes is one chunk. -/
theorem chunks_short {f : Bytes} (h : f ≠ []) (h20 : f.length ≤ 20) : chunks Config.chunkSize f = [f] := by
  have h1 : 0 < f.length := List.length_pos_of_ne_nil h
  have h2 : (f.length + 20 - 1) / 20 = 1 := by omega
  unfold chunks Config.chunkSize
  rw [h2]
  simp [chunk, List.take_of_length_le h20]

/-- The pairing frame is two chunks, of 20 and 9 bytes. -/
theorem chunks_pairing {f : Bytes} (h : f.length = 29) : chunks Config.chunkSize f = [f.take 20, f.drop 20] := by
  unfold chunks Config.chunkSize
  rw [h]
  simp only [Nat.reduceAdd, Nat.reduceSub, Nat.reduceDiv, List.range_succ, List.range_zero, List.nil_append,
    List.cons_append, List.map_cons, List.map_nil, chunk, Nat.mul_zero, List.drop_zero, Nat.mul_one]
  rw [List.take_of_length_le (l := f.drop 20) (by rw [List.length_drop]; omega)]

@[simp] theorem frame_length (dest opcode : Byte) (args : Bytes) (salt : Word) :
    (frame dest opcode args salt).length = args.length + 5 := by
  simp [frame, frameFields, be16]

/-- The arguments of the pairing request are 24 bytes. -/
theorem pairArgs_length (newId : Word) {name : Bytes} (h : name.length ≤ 20) : (pairArgs newId name).length = 24 := by
  simp [pairArgs, padName, be32, Config.nameLen]
  omega

end Sys2Proof.Machine
end

