-- ==== Sys2Proof/Laws/Reassembler.lean ====
section
/-! SUPPORT. What a fragment step can do, said once. -/

namespace Sys2Proof.Machine

theorem rxState_idle_iff (s : State) : s.rxState = .idle ↔ s.bufLen = 0 := by
  simp [State.rxState]

theorem rxState_accumulating_iff (s : State) : s.rxState = .accumulating ↔ s.bufLen ≠ 0 := by
  simp [State.rxState]

theorem fragmentStep_idle {s : State} (h : s.rxState = .idle) (f : Bytes) : fragmentStep f s = idleStep f s := by
  simp [fragmentStep, h]

theorem fragmentStep_accumulating {s : State} (h : s.rxState = .accumulating) (f : Bytes) :
    fragmentStep f s = accumulatingStep f s := by
  simp [fragmentStep, h]

/-- Storing the first piece of a notification (R195). -/
def storedFirst (s : State) (slot exp : Byte) (init : Bytes) : State :=
  { s with buf := s.buf.writeBytes 0 init, bufLen := BitVec.ofNat 8 init.length, pendSlot := some slot,
           expLen := some exp }

/-- Appending a continuation (R200). -/
def storedMore (s : State) (f : Bytes) : State :=
  { s with buf := s.buf.writeBytes s.bufLen.toNat f, bufLen := BitVec.ofNat 8 (s.bufLen.toNat + f.length) }

theorem idleParsed_store {s : State} {slot exp : Byte} {init : Bytes} (h0 : init ≠ [])
    (h : init.length < exp.toNat) : idleParsed slot exp init s = .next (storedFirst s slot exp init) := by
  have hl : ¬ init.length = 0 := by simpa using h0
  have hx : exp.toNat < 256 := exp.isLt
  have hb : 0 + init.length ≤ Config.bufCap := by simp only [Config.bufCap]; omega
  simp [idleParsed, h, hl, memWrite_inside s hb, State.openNotification, storedFirst]

theorem accumulatingStep_extend {s : State} {exp : Byte} (he : s.expLen = some exp) {f : Bytes}
    (h : s.bufLen.toNat + f.length < exp.toNat) : accumulatingStep f s = .next (storedMore s f) := by
  have hx : exp.toNat < 256 := exp.isLt
  have hb : s.bufLen.toNat + f.length ≤ Config.bufCap := by simp only [Config.bufCap]; omega
  simp [accumulatingStep, he, h, memWrite_inside s hb, State.extendNotification, storedMore]

theorem accumulatingStep_overflow {s : State} {exp : Byte} (he : s.expLen = some exp) {f : Bytes}
    (h : exp.toNat < s.bufLen.toNat + f.length) :
    accumulatingStep f s =
      .next (s.raise (.lengthMismatch exp.toNat (s.bufLen.toNat + f.length))).clearReassembly := by
  have h1 : ¬ s.bufLen.toNat + f.length < exp.toNat := by omega
  have h2 : ¬ s.bufLen.toNat + f.length = exp.toNat := by omega
  simp [accumulatingStep, he, h1, h2]

theorem accumulatingStep_complete {s : State} {exp slot : Byte} (he : s.expLen = some exp)
    (hs : s.pendSlot = some slot) {f bs : Bytes} (h : s.bufLen.toNat + f.length = exp.toNat)
    (hr : memRead s 0 s.bufLen.toNat = .ok bs) :
    accumulatingStep f s = .next (s.emit [.dispatch slot (bs ++ f)]).clearReassembly := by
  simp [accumulatingStep, he, h, completeNotification, hr, hs]

/-- Everything the Idle step can do. -/
theorem idleStep_cases (f : Bytes) (s : State) :
    (f.length < 3 ∧ idleStep f s = .next (s.raise (.shortFragment f.length))) ∨
    (∃ marker x exp init, f = marker :: x :: exp :: init ∧
      ((init ≠ [] ∧ init.length < exp.toNat ∧ idleStep f s = .next (storedFirst s (markerSlot marker) exp init)) ∨
       (init = [] ∧ 0 < exp.toNat ∧ idleStep f s = .next s) ∨
       (init.length = exp.toNat ∧ idleStep f s = .next (s.emit [.dispatch (markerSlot marker) init])) ∨
       (exp.toNat < init.length ∧ idleStep f s = .next (s.raise (.lengthMismatch exp.toNat init.length))))) := by
  match f with
  | [] => exact .inl ⟨by simp, rfl⟩
  | [_] => exact .inl ⟨by simp, rfl⟩
  | [_, _] => exact .inl ⟨by simp, rfl⟩
  | marker :: x :: exp :: init =>
    refine .inr ⟨marker, x, exp, init, rfl, ?_⟩
    rcases Nat.lt_trichotomy init.length exp.toNat with h | h | h
    · by_cases h0 : init = []
      · subst h0
        exact .inr (.inl ⟨rfl, h, by simp only [List.length_nil] at h; simp [idleStep, idleParsed, h]⟩)
      · exact .inl ⟨h0, h, idleParsed_store h0 h⟩
    · exact .inr (.inr (.inl ⟨h, by simp [idleStep, idleParsed, h]⟩))
    · refine .inr (.inr (.inr ⟨h, ?_⟩))
      have h1 : ¬ init.length < exp.toNat := by omega
      have h2 : ¬ init.length = exp.toNat := by omega
      simp [idleStep, idleParsed, h1, h2]

/-- What the invariant gives while a notification is in flight. -/
theorem State.Inv.accumulating {s : State} (hi : s.Inv) (ha : s.rxState = .accumulating) :
    ∃ slot exp held, s.pendSlot = some slot ∧ s.expLen = some exp ∧ s.bufLen.toNat < exp.toNat ∧
      0 < s.bufLen.toNat ∧ memRead s 0 s.bufLen.toNat = .ok held ∧ held.length = s.bufLen.toNat ∧
      ∀ k < s.bufLen.toNat, held[k]? = s.buf.read k := by
  have h0 : s.bufLen ≠ 0 := (rxState_accumulating_iff s).1 ha
  obtain ⟨-, hp, he, hx, hw⟩ := hi
  obtain ⟨slot, hslot⟩ := Option.isSome_iff_exists.1 (hp.2 h0)
  obtain ⟨exp, hexp⟩ := Option.isSome_iff_exists.1 (he.2 h0)
  have hlt : s.bufLen.toNat < exp.toNat := hx exp (by simp [hexp])
  have hx' : exp.toNat < 256 := exp.isLt
  have hpos : 0 < s.bufLen.toNat := by
    rcases Nat.eq_zero_or_pos s.bufLen.toNat with h | h
    · exact absurd (BitVec.eq_of_toNat_eq (by simpa using h)) h0
    · exact h
  obtain ⟨held, h1, h2, h3⟩ := memRead_written s s.bufLen.toNat (by simp only [Config.bufCap]; omega) hw
  exact ⟨slot, exp, held, hslot, hexp, hlt, hpos, h1, h2, h3⟩

/-- Everything the Accumulating step can do in a state of the invariant. -/
theorem accumulatingStep_cases {s : State} (hi : s.Inv) (ha : s.rxState = .accumulating) (f : Bytes) :
    ∃ slot exp held, s.pendSlot = some slot ∧ s.expLen = some exp ∧ s.bufLen.toNat < exp.toNat ∧
      held.length = s.bufLen.toNat ∧ (∀ k < s.bufLen.toNat, held[k]? = s.buf.read k) ∧
      ((s.bufLen.toNat + f.length < exp.toNat ∧ accumulatingStep f s = .next (storedMore s f)) ∨
       (s.bufLen.toNat + f.length = exp.toNat ∧
         accumulatingStep f s = .next (s.emit [.dispatch slot (held ++ f)]).clearReassembly) ∨
       (exp.toNat < s.bufLen.toNat + f.length ∧
         accumulatingStep f s =
           .next (s.raise (.lengthMismatch exp.toNat (s.bufLen.toNat + f.length))).clearReassembly)) := by
  obtain ⟨slot, exp, held, hs, he, hlt, -, hr, hl, hk⟩ := hi.accumulating ha
  refine ⟨slot, exp, held, hs, he, hlt, hl, hk, ?_⟩
  rcases Nat.lt_trichotomy (s.bufLen.toNat + f.length) exp.toNat with h | h | h
  · exact .inl ⟨h, accumulatingStep_extend he h⟩
  · exact .inr (.inl ⟨h, accumulatingStep_complete he hs h hr⟩)
  · exact .inr (.inr ⟨h, accumulatingStep_overflow he h⟩)

end Sys2Proof.Machine
end

