-- ==== Sys2Proof/Laws/Step.lean ====
section
/-! SUPPORT. What a step and a run of steps can do. -/

namespace Sys2Proof.Machine

/-- A step that answers a next state was idle or ran an operation on the state without the input it took. -/
theorem step_cases {s t : State} (h : step s = .next t) :
    (s.inbox = [] ∧ t = s) ∨
    (∃ x rest i, s.inbox = x :: rest ∧ selectInput s.rxState x = .ok i ∧ i.WellFormed ∧
      exec i (s.takeInput rest) = .next t) := by
  unfold step at h
  split at h
  · next hin =>
    cases h
    exact .inl ⟨hin, rfl⟩
  · next x rest hin =>
    split at h
    · cases h
    · next i hsel =>
      split at h
      · cases h
      · next hw => exact .inr ⟨x, rest, i, hin, hsel, hw, h⟩

/-- A delivered fragment is one fragment step (R191). -/
theorem step_fragment {s : State} {f : Bytes} {rest : List Input} (h : s.inbox = .frag f :: rest) :
    step s = fragmentStep f (s.takeInput rest) := by
  unfold step
  rw [h]
  cases hr : s.rxState <;> simp only [selectInput, decodeFragment, Instr.illFormed] <;> rfl

/-- A run of one more step. -/
theorem run_succ {s t : State} (h : step s = .next t) (n : Nat) : core.run (n + 1) s = core.run n t := by
  simp only [Host.Core.run]
  rw [show core.step s = .next t from h]

/-- A run after a run. -/
theorem run_add {s t : State} {n : Nat} (h : core.run n s = .next t) (m : Nat) :
    core.run (n + m) s = core.run m t := by
  induction n generalizing s with
  | zero =>
    cases h
    rw [Nat.zero_add]
  | succ n ih =>
    cases hs : step s with
    | next u =>
      rw [run_succ hs] at h
      rw [Nat.add_right_comm, run_succ hs]
      exact ih h
    | fault r =>
      simp only [Host.Core.run] at h
      rw [show core.step s = .fault r from hs] at h
      cases h
    | refused r =>
      simp only [Host.Core.run] at h
      rw [show core.step s = .refused r from hs] at h
      cases h

end Sys2Proof.Machine
end

