-- ==== Sys2Proof/Tests/Slice0.lean ====
section
/-! SUPPORT. The model's own tests. Every expected value is copied from `95_test_vectors.md` (its section is named) or
written out from the encodings of `30_encoding.md`. -/

namespace Sys2Proof.Tests

set_option Elab.async false

open Sys2Proof.Machine Sys2Proof.Claims

/-! ### Small states -/

/-- Identity `CLIENT_ID = 0x12345678`, `CLIENT_SLOT = 0x01`, Idle: the state of section 3. -/
def known : State := State.launch (some 0x12345678) (some 0x01)

/-- `Acc(4, 1, 10)` with `BUF[0:4] = 01 00 32 00` (T3b, T10, T11). -/
def held : State :=
  { known with buf := [(0, 0x01), (1, 0x00), (2, 0x32), (3, 0x00)], bufLen := 4, pendSlot := some 1, expLen := some 10 }

/-- `Acc(7, 1, 10)` (T4). -/
def heldSeven : State :=
  { known with
    buf := [(0, 0x01), (1, 0x00), (2, 0x32), (3, 0x00), (4, 0x28), (5, 0x64), (6, 0x00)]
    bufLen := 7, pendSlot := some 1, expLen := some 10 }

/-- What an operation presents on the ports, where it answers a next state. -/
def outputs (i : Instr) (s : State) : Option (List Output) :=
  match exec i s with
  | .next t => some t.outbox
  | .fault _ | .refused _ => none

/-- The state after an operation, where it answers one. -/
def after (i : Instr) (s : State) : Option State :=
  match exec i s with
  | .next t => some t
  | .fault _ | .refused _ => none

/-- The fault of an operation, where it ends in one. -/
def faultOf (i : Instr) (s : State) : Option Fault :=
  match exec i s with
  | .fault r => some r
  | .next _ | .refused _ => none

/-- The refusal of a step, where it ends in one. -/
def refusalOf (s : State) : Option Refusal :=
  match step s with
  | .refused r => some r
  | .next _ | .fault _ => none

/-- The state after a step, where it answers one. -/
def stepNext (s : State) : Option State :=
  match step s with
  | .next t => some t
  | .fault _ | .refused _ => none

/-! ### Well-formedness: an ill-formed term for the check -/

theorem test_wf_details_16 : (Instr.queryClientDetails 16).illFormed = some (.slotNotAdmitted 16) := by decide +kernel
theorem test_wf_preset_details_0x40 : (Instr.queryPresetDetails 0x40).illFormed = some (.slotNotAdmitted 0x40) := by
  decide +kernel
theorem test_wf_unpair_255 : (Instr.unpairClient 255).illFormed = some (.slotNotAdmitted 255) := by decide +kernel
theorem test_wf_start_16 : (Instr.startPreset 16).illFormed = some (.slotNotAdmitted 16) := by decide +kernel
theorem test_wf_details_15 : (Instr.queryClientDetails 15).WellFormed := by decide +kernel
/-- X1: a long name is no well-formedness matter. -/
theorem test_wf_long_name : (Instr.pairClient 1 (List.replicate 21 0x41)).WellFormed := by decide +kernel

/-! ### Decoding: words written out from the encodings of R92 -/

theorem test_dec_client_slots : decodeFrame [0x01, 0x6B, 0x01, 0x00, 0x7F, 0x54] = .ok .queryClientSlots := by decide +kernel
theorem test_dec_client_details : decodeFrame [0x01, 0x6B, 0x01, 0x12, 0x3F, 0x8D] = .ok (.queryClientDetails 2) := by
  decide +kernel
theorem test_dec_device_settings : decodeFrame [0x01, 0x3E, 0x00, 0x52, 0xAC] = .ok .queryDeviceSettings := by decide +kernel
theorem test_dec_device_state : decodeFrame [0x01, 0x07, 0x00, 0x35, 0xC2] = .ok .queryDeviceState := by decide +kernel
theorem test_dec_nickname : decodeFrame [0x01, 0x44, 0x00, 0x91, 0x32] = .ok .queryNickname := by decide +kernel
theorem test_dec_outlet_settings : decodeFrame [0x01, 0x10, 0x00, 0xE7, 0x07] = .ok .queryOutletSettings := by decide +kernel
theorem test_dec_preset_details : decodeFrame [0x01, 0x30, 0x01, 0x43, 0x21, 0x56] = .ok (.queryPresetDetails 3) := by
  decide +kernel
theorem test_dec_preset_slots : decodeFrame [0x01, 0x30, 0x01, 0x80, 0xFC, 0x3C] = .ok .queryPresetSlots := by decide +kernel
theorem test_dec_technical : decodeFrame [0x01, 0x32, 0x01, 0x01, 0x14, 0x5E] = .ok .queryTechnicalInfo := by decide +kernel
theorem test_dec_pair :
    decodeFrame [0x00, 0xEB, 0x18, 0x00, 0x01, 0xE2, 0x40, 0x50, 0x68, 0x6F, 0x6E, 0x65, 0, 0, 0, 0, 0, 0, 0, 0,
      0, 0, 0, 0, 0, 0, 0, 0x35, 0x46] = .ok (.pairClient 0x0001E240 [0x50, 0x68, 0x6F, 0x6E, 0x65]) := by decide +kernel
theorem test_dec_unpair : decodeFrame [0x01, 0xEB, 0x01, 0x02, 0x90, 0x2E] = .ok (.unpairClient 2) := by decide +kernel
theorem test_dec_control :
    decodeFrame [0x01, 0x87, 0x05, 0x01, 0x01, 0x7E, 0x64, 0x00, 0x12, 0x67] = .ok (.controlOutlets 0x7E true false) := by
  decide +kernel
theorem test_dec_control_paused :
    decodeFrame [0x01, 0x87, 0x05, 0x03, 0x01, 0x7E, 0x00, 0x00, 0x8D, 0xB9] = .ok (.controlOutlets 0x7E false false) := by
  decide +kernel
theorem test_dec_start : decodeFrame [0x01, 0xB1, 0x01, 0x0F, 0xA8, 0x8D] = .ok (.startPreset 15) := by decide +kernel

/-- R83: no request has opcode `0x08`. -/
theorem test_dec_unknown : decodeFrame [0x01, 0x08, 0x00, 0x35, 0xC2] = .error (.unknownOpcode 0x08) := by decide +kernel
/-- R102: a frame is `frame[2] + 5` bytes long. -/
theorem test_dec_length : decodeFrame [0x01, 0x07, 0x00, 0x35] = .error .wrongLength := by decide +kernel
/-- R92: argument `0x20` is in neither row of opcode `0x6B`. -/
theorem test_dec_gap : decodeFrame [0x01, 0x6B, 0x01, 0x20, 0, 0] = .error (.wrongArguments 0x6B) := by decide +kernel
/-- R82: the pairing frame has destination slot 0. -/
theorem test_dec_pair_dest :
    decodeFrame ([0x01, 0xEB, 0x18] ++ List.replicate 26 0x00) = .error (.pairingDestination 0x01) := by decide +kernel
/-- R95: `timer_mode` 3 with an outlet on is no request. -/
theorem test_dec_timer : decodeFrame [0x01, 0x87, 0x05, 0x03, 0x01, 0x7E, 0x64, 0x00, 0, 0] = .error (.wrongArguments 0x87) := by
  decide +kernel

/-- R90, R191: the same bytes are read by `RX_STATE`. -/
theorem test_dec_fragment : decodeFragment .idle [0x41] = .firstFragment [0x41] ∧
    decodeFragment .accumulating [0x41] = .continuationFragment [0x41] := by decide +kernel

/-- R101: no frame belongs to two rows. -/
theorem test_rows_disjoint :
    frameRows.Pairwise fun r q => r.length ≠ q.length ∨ (r.pattern ^^^ q.pattern) &&& r.mask &&& q.mask ≠ 0 := by
  decide +kernel

/-- The frame `01 07 00 35 C2` numbered from the least significant bit of its first byte. -/
theorem test_table_word : decodeTableWord 40 0xC235000701 = some .queryDeviceState := by decide +kernel
/-- With the check bytes left out (R101: the row's first four bytes). -/
theorem test_table_word_short : decodeTableWord 32 0x12016B00 = some (.queryClientDetails 2) := by decide +kernel

theorem test_encode_control :
    encode 0x01 0x1267 (.controlOutlets 0x7E true false) = some [0x01, 0x87, 0x05, 0x01, 0x01, 0x7E, 0x64, 0x00, 0x12, 0x67] := by
  decide +kernel

/-! ### The checksum (section 2) -/

theorem test_crc_bit : crcBit 0xFFFF false = 0xEFDF := by decide +kernel
theorem test_crc_byte : crcByte 0xFFFF 0x01 = 0xF1D1 := by decide +kernel
theorem test_crc_byte_80 : crcByte 0x0000 0x80 = 0x9188 := by decide +kernel
theorem test_crc_check : crcCore [0x31, 0x32, 0x33, 0x34, 0x35, 0x36, 0x37, 0x38, 0x39] = 0x29B1 := by decide +kernel
theorem test_checksum_salt : checksum [0x01, 0x07, 0x00] 0x12345678 = 0x35C2 := by decide +kernel
theorem test_checksum_magic : checksum [] 0x54D2EE63 = 0x5F86 := by decide +kernel

/-! ### The requests (section 3) -/

theorem test_client_slots : outputs .queryClientSlots known = some [.tx [0x01, 0x6B, 0x01, 0x00, 0x7F, 0x54], .ok] := by
  decide +kernel
theorem test_client_details :
    outputs (.queryClientDetails 15) known = some [.tx [0x01, 0x6B, 0x01, 0x1F, 0x1E, 0xF7], .ok] := by decide +kernel
/-- R98: outside the admitted range the hardware function wraps. -/
theorem test_client_details_wrap :
    outputs (.queryClientDetails 0xF0) known = some [.tx [0x01, 0x6B, 0x01, 0x00, 0x7F, 0x54], .ok] := by decide +kernel
theorem test_device_settings : outputs .queryDeviceSettings known = some [.tx [0x01, 0x3E, 0x00, 0x52, 0xAC], .ok] := by
  decide +kernel
theorem test_device_state :
    outputs .queryDeviceState (State.launch (some 0xCAFEBABE) (some 0x02)) =
      some [.tx [0x02, 0x07, 0x00, 0xCD, 0xE3], .ok] := by decide +kernel
theorem test_nickname : outputs .queryNickname known = some [.tx [0x01, 0x44, 0x00, 0x91, 0x32], .ok] := by decide +kernel
theorem test_outlet_settings : outputs .queryOutletSettings known = some [.tx [0x01, 0x10, 0x00, 0xE7, 0x07], .ok] := by
  decide +kernel
theorem test_preset_details :
    outputs (.queryPresetDetails 15) known = some [.tx [0x01, 0x30, 0x01, 0x4F, 0xAA, 0x7D], .ok] := by decide +kernel
theorem test_preset_slots : outputs .queryPresetSlots known = some [.tx [0x01, 0x30, 0x01, 0x80, 0xFC, 0x3C], .ok] := by
  decide +kernel
theorem test_technical : outputs .queryTechnicalInfo known = some [.tx [0x01, 0x32, 0x01, 0x01, 0x14, 0x5E], .ok] := by
  decide +kernel
/-- X6: legal straight after reset; two chunks. -/
theorem test_pair_reset :
    outputs (.pairClient 1 []) State.resetUnwritten =
      some [.tx ([0x00, 0xEB, 0x18, 0x00, 0x00, 0x00, 0x01] ++ List.replicate 13 0x00),
        .tx [0x00, 0x00, 0x00, 0x00, 0x00, 0x00, 0x00, 0x9E, 0x1C], .ok] := by decide +kernel
/-- X1. -/
theorem test_pair_long :
    outputs (.pairClient 1 (List.replicate 21 0x41)) known = some [.invalidArgument (.nameTooLong 21)] := by decide +kernel
theorem test_unpair : outputs (.unpairClient 2) known = some [.tx [0x01, 0xEB, 0x01, 0x02, 0x90, 0x2E], .ok] := by
  decide +kernel
theorem test_control :
    outputs (.controlOutlets 0x00 false true) known =
      some [.tx [0x01, 0x87, 0x05, 0x01, 0x01, 0x00, 0x00, 0x64, 0x6D, 0xED], .ok] := by decide +kernel
theorem test_control_paused :
    outputs (.controlOutlets 0x7E false false) known =
      some [.tx [0x01, 0x87, 0x05, 0x03, 0x01, 0x7E, 0x00, 0x00, 0x8D, 0xB9], .ok] := by decide +kernel
theorem test_start : outputs (.startPreset 1) known = some [.tx [0x01, 0xB1, 0x01, 0x01, 0x67, 0x25], .ok] := by decide +kernel

/-- X4. -/
theorem test_unwritten : faultOf .queryDeviceState State.resetUnwritten = some (.unwrittenIdentity [.clientId, .clientSlot]) := by
  decide +kernel
/-- R39 with launch parameters: the free values are enough to run. -/
theorem test_reset_runs : (outputs .queryDeviceState State.reset).map List.length = some 2 := by decide +kernel
theorem test_reset_fetch : (stepNext (State.reset.withFetchWord 32 0x12016B00)).isSome := by decide +kernel
/-- X5. -/
theorem test_unwritten_slot :
    faultOf .queryDeviceState (State.launch (some 5) none) = some (.unwrittenIdentity [.clientSlot]) := by decide +kernel

/-- The chunk lengths of a 29-byte frame at size 7 (section 3). -/
theorem test_chunks_seven : (chunks 7 (List.replicate 29 0x00)).map List.length = [7, 7, 7, 7, 1] := by decide +kernel

/-! ### Identity writes -/

theorem test_set_id : (after (.setClientId 5) State.resetUnwritten).map State.clientId = some (some 5) := by decide +kernel
theorem test_set_slot : (after (.setClientSlot 0xFF) held).map State.clientSlot = some (some 0xFF) := by decide +kernel

/-! ### The reassembler (section 4) -/

/-- T1 -/
theorem test_first_dispatch : outputs (.firstFragment [0x41, 0x00, 0x01, 0x01]) known = some [.dispatch 1 [0x01]] := by
  decide +kernel
/-- T3b, first step -/
theorem test_first_store : after (.firstFragment [0x41, 0x07, 0x0A, 0x01, 0x00, 0x32, 0x00]) known = some held := by
  decide +kernel
/-- T5, third step -/
theorem test_first_short : outputs (.firstFragment [0x41, 0x00]) known = some [.diag (.shortFragment 2)] := by decide +kernel
/-- T6, first step -/
theorem test_first_header_only : after (.firstFragment [0x41, 0x00, 0x05]) known = some known := by decide +kernel
/-- T4b -/
theorem test_first_mismatch :
    outputs (.firstFragment [0x41, 0x07, 0x02, 0x01, 0x02, 0x03]) known = some [.diag (.lengthMismatch 2 3)] := by decide +kernel
/-- T8, first step -/
theorem test_first_wrap : outputs (.firstFragment [0x3F, 0x00, 0x01, 0x01]) known = some [.dispatch 255 [0x01]] := by
  decide +kernel
/-- T3b, second step -/
theorem test_cont_complete :
    outputs (.continuationFragment [0x28, 0x64, 0x00, 0x00, 0x1E, 0x05]) held =
      some [.dispatch 1 [0x01, 0x00, 0x32, 0x00, 0x28, 0x64, 0x00, 0x00, 0x1E, 0x05]] := by decide +kernel
/-- T10b, second step -/
theorem test_cont_extend :
    (after (.continuationFragment [0x41, 0x00, 0x01, 0x01]) held).map (fun t => (t.bufLen, t.buf.read 4, t.outbox)) =
      some (8, some 0x41, []) := by decide +kernel
/-- T4, second step -/
theorem test_cont_mismatch :
    (after (.continuationFragment [0x00, 0x1E, 0x05, 0xAA, 0xBB]) heldSeven).map (fun t => (t.rxState, t.expLen, t.outbox)) =
      some (.idle, none, [.diag (.lengthMismatch 10 12)]) := by decide +kernel
/-- T10, second step -/
theorem test_rx_reset : (after .rxReset held).map (fun t => (t.rxState, t.pendSlot, t.clientId, t.outbox)) =
    some (.idle, none, some 0x12345678, []) := by decide +kernel

/-! ### One step -/

/-- X10 -/
theorem test_step_refuses :
    refusalOf { known with inbox := [.host (.queryClientDetails 16)] } = some (.illFormed (.slotNotAdmitted 16)) := by
  decide +kernel
theorem test_step_fragment :
    (stepNext { held with inbox := [.frag [0x28, 0x64, 0x00, 0x00, 0x1E, 0x05], .host .rxReset] }).map
      (fun t => (dispatches t.outbox, t.inbox)) =
      some ([(1, [0x01, 0x00, 0x32, 0x00, 0x28, 0x64, 0x00, 0x00, 0x1E, 0x05])], [.host .rxReset]) := by decide +kernel
theorem test_step_not_host : refusalOf { known with inbox := [.host (.firstFragment [])] } = some .notAHostCommand := by
  decide +kernel
theorem test_step_fetch_word :
    (stepNext (known.withFetchWord 40 0xC235000701)).map (fun t => txChunks t.outbox) =
      some [[0x01, 0x07, 0x00, 0x35, 0xC2]] := by decide +kernel

/-- R12, R58, R59: the write characteristic labels `TX`, the notify characteristic `RX`. -/
theorem test_characteristics (c f : Bytes) :
    (Output.tx c).port.characteristic = some Config.writeChar ∧ (Input.frag f).port.characteristic = some Config.notifyChar ∧
    Output.ok.port.characteristic = none := ⟨rfl, rfl, rfl⟩

/-! ### The adjacent codecs (section 6) -/

theorem test_slots : decodePayload .a 1 [0x80, 0x01] = .event 1 (.slots [0, 15]) := by decide +kernel
theorem test_device_settings_event :
    decodePayload .a 1 [0x00, 0x03, 0x01, 0x05] = .event 1 (.deviceSettings [0, 1] 1 [0, 2]) := by decide +kernel
theorem test_device_state_event :
    decodePayload .a 1 [0x01, 0x00, 0x32, 0x00, 0x28, 0x64, 0x00, 0x00, 0x1E, 0x05] =
      .event 1 (.deviceState 1 (306 / 10) (296 / 10) true false 30 5) := by decide +kernel
theorem test_outlet_settings_event :
    decodePayload .a 1 [0x04, 0, 0, 0, 0x0A, 0, 0x90, 0, 0x32, 0, 0x07] =
      .event 1 (.outletSettings 4 10 40 (306 / 10) 7) := by decide +kernel
theorem test_no_event : decodePayload .a 1 [0x02, 0x01, 0x00, 0x32, 0x00, 0x28, 0x64, 0x00, 0x00, 0x1E, 0x05] = .noEvent := by
  decide +kernel
theorem test_nickname_event :
    decodePayload .a 1 ([0x53, 0x68, 0x6F, 0x77, 0x65, 0x72] ++ List.replicate 10 0x00) =
      .event 1 (.nickname (['S', 'h', 'o', 'w', 'e', 'r'] ++ List.replicate 10 (Char.ofNat 0))) := by decide +kernel
theorem test_decode_error : decodePayload .a 1 (0xFF :: List.replicate 19 0x00) = .decodeError := by decide +kernel
/-- R235, S1. -/
theorem test_status : decodePayload .a 1 [0x01] = .event 1 (.successOrFailure 1) := by decide +kernel
/-- Program 3: the second half of the response is dispatched under slot 2, and the listener is handed its event. -/
theorem test_notice :
    notices .a [.tx [], .dispatch 2 ([0x02, 0x00, 0x7E, 0x00, 0x3C, 0x03, 0x00, 0x00, 0x4D, 0x6F, 0x72, 0x6E, 0x69, 0x6E, 0x67]
      ++ List.replicate 9 0x00)] =
      [.event 2 (.presetDetails 2 (382 / 10) 60 [0, 1]
        (['M', 'o', 'r', 'n', 'i', 'n', 'g'] ++ List.replicate 9 (Char.ofNat 0)))] := by decide +kernel
theorem test_utf8_two_bytes : utf8 [0xC3, 0xA9] = some ['é'] := by decide +kernel
theorem test_temp_encode : tempEncode .a (382 / 10) = 0x7E := by decide +kernel
theorem test_temp_encode_b : tempEncode .b 38 = 0x7F := by decide +kernel
theorem test_temp_saturates : tempEncode .a 60 = 0xFF ∧ tempEncode .a 0 = 0x00 := by decide +kernel

/-! ### The invariant holds where the tests start -/

theorem test_reset_inv : State.reset.Inv := by decide +kernel
theorem test_held_inv : held.Inv := by decide +kernel

/-! ### Witnesses: for every statement with hypotheses, a state and operands that meet all of them together, at the
boundaries of each clause -/

theorem exec_completes {i : Instr} {s : State} (h : (after i s).isSome) : ∃ t, exec i s = .next t := by
  unfold after at h
  split at h
  · exact ⟨_, ‹_›⟩
  · cases h
  · cases h

theorem step_completes {s : State} (h : (stepNext s).isSome) : ∃ t, step s = .next t := by
  unfold stepNext at h
  split at h
  · exact ⟨_, ‹_›⟩
  · cases h
  · cases h

/-- `Acc(4, 1, 10)` with the completing fragment delivered. -/
def heldTail : State := { held with inbox := [.frag [0x28, 0x64, 0x00, 0x00, 0x1E, 0x05]] }

/-- A name of exactly 20 bytes. -/
def fullName : Bytes := List.replicate 20 0x41

theorem witness_StepKeepsReassemblyInvariant : heldTail.Inv ∧ ∃ t, step heldTail = .next t :=
  ⟨by decide +kernel, step_completes (by decide +kernel)⟩

theorem witness_StepKeepsPortsLegal :
    let s := { heldTail with outbox := [.tx (List.replicate 20 0x00), .dispatch 1 (List.replicate 255 0x00)] }
    s.Inv ∧ s.PortsLegal ∧ ∃ t, step s = .next t := by
  refine ⟨by decide +kernel, fun o ho => ?_, step_completes (by decide +kernel)⟩
  rcases List.mem_cons.mp ho with rfl | h
  · exact ⟨by decide +kernel, by decide +kernel⟩
  · rcases List.mem_singleton.mp h with rfl
    exact show (List.replicate 255 (0x00 : Byte)).length ≤ 255 by decide +kernel

theorem witness_StepRunsTheSelectedOperation :
    known.inbox = [] ∧
    (Instr.rxReset.isHostCommand ∧ Instr.rxReset.WellFormed ∧ ({ held with inbox := [.host .rxReset] } : State).inbox = .host .rxReset :: []) ∧
    (known.bufLen = 0 ∧ ({ known with inbox := [.frag []] } : State).inbox = .frag [] :: []) ∧
    (heldTail.bufLen ≠ 0 ∧ heldTail.inbox = .frag [0x28, 0x64, 0x00, 0x00, 0x1E, 0x05] :: []) ∧
    (decodeFrame [0x01, 0xB1, 0x01, 0x0F, 0xA8, 0x8D] = .ok (.startPreset 15) ∧ (Instr.startPreset 15).WellFormed) := by
  decide +kernel

theorem witness_StepRefusesWhatTheHostMayNotIssue :
    15 < (16 : Byte).toNat ∧
    Instr.unpairClient 16 ∈ [.queryClientDetails 16, .queryPresetDetails 16, Instr.unpairClient 16, .startPreset 16] ∧
    decodeFrame [0x01, 0xEB, 0x01, 0x10, 0x00, 0x00] = .ok (.unpairClient 16) ∧
    decodeFrame [0x01, 0xB1, 0x01, 0xFF, 0x00, 0x00] = .ok (.startPreset 255) ∧
    decodeFrame [0x01, 0x07] = .error .noHeader ∧ (Instr.continuationFragment []).isFragment := by decide +kernel

theorem witness_DecodeEncodeAgree :
    (Instr.pairClient 1 fullName).isRequest ∧ (Instr.pairClient 1 fullName).WellFormed ∧
    NameFits (.pairClient 1 fullName) ∧ (Instr.pairClient 1 fullName).nameUnpadded :=
  ⟨by decide +kernel, by decide +kernel, fun _ _ h => by cases h; decide +kernel, by decide +kernel⟩

theorem witness_DecodedBytes :
    decodeFrame [0xFF, 0x6B, 0x01, 0x1F, 0xAA, 0xBB] = .ok (.queryClientDetails 15) ∧
    ∃ r ∈ frameRows, r.mnemonic = "QUERY_CLIENT_DETAILS" ∧ r.admits [0xFF, 0x6B, 0x01, 0x1F, 0xAA, 0xBB] := by decide +kernel

theorem witness_FieldsDetermineTheMnemonicInTheAdmittedRange :
    (Instr.queryPresetDetails 15).isRequest ∧ (Instr.queryPresetDetails 15).WellFormed ∧
    encode 0x01 0x0000 (.queryPresetDetails 15) = some ([0x01, 0x30, 0x01, 0x4F] ++ [0x00, 0x00]) ∧
    encode 0x01 0x1234 (.queryPresetDetails 15) = some ([0x01, 0x30, 0x01, 0x4F] ++ [0x12, 0x34]) := by decide +kernel

theorem witness_ChunksReproduceTheFrame :
    (1 ≤ 1 ∧ 1 ≤ 20 ∧ 1 * 28 < (List.replicate 29 (0x00 : Byte)).length) ∧
    (1 ≤ 20 ∧ 20 ≤ 20 ∧ 20 * 1 < (List.replicate 29 (0x00 : Byte)).length) ∧
    1 ≤ ([0x00] : Bytes).length ∧ fullName.length ≤ 20 ∧ (List.replicate 29 (0x00 : Byte)).length = 29 ∧
    (encode 0x01 0x0000 (.pairClient 1 fullName)).isSome ∧ (encode 0x01 0x0000 .queryNickname).isSome := by decide +kernel

/-- The hypotheses of every statement about an authenticated request's result. -/
theorem witness_requests : known.clientId = some 0x12345678 ∧ known.clientSlot = some 0x01 := by decide +kernel

theorem witness_PairClient :
    fullName.length ≤ 20 ∧ ([] : Bytes).length ≤ 20 ∧ 20 < (List.replicate 21 (0x41 : Byte)).length ∧
    (after (.pairClient 1 (List.replicate 21 0x41)) known).any (fun t => some (.nameTooLong 21) ∈ hostResults t.outbox) ∧
    ∃ fields : Bytes, fields = [0x00, 0xEB, 0x18, 0x00, 0x00, 0x00, 0x01] ++ fullName ++ List.replicate (20 - 20) 0x00 :=
  ⟨by decide +kernel, by decide +kernel, by decide +kernel, by decide +kernel, _, rfl⟩

theorem witness_UnwrittenIdentityFaults :
    Instr.queryNickname.isRequest ∧ Instr.queryNickname.isPairing = false ∧
    (State.launch none (some 1)).clientId = none ∧ (State.launch (some 1) none).clientSlot = none := by decide +kernel

theorem witness_WrittenIdentityNeverFaults :
    let s : State := { known with inbox := [.host .queryNickname] }
    s.IdentityWritten ∧ (∃ t, step s = .next t) ∧
    ∃ t u, exec (.setClientId 0) State.resetUnwritten = .next t ∧ exec (.setClientSlot 0) t = .next u :=
  ⟨by decide +kernel, step_completes (by decide +kernel), _, _, rfl, rfl⟩

theorem witness_RefusalComesBeforeTheIdentityFault :
    (Instr.unpairClient 16).isHostCommand ∧ (Instr.unpairClient 16).illFormed = some (.slotNotAdmitted 16) ∧
    ({ State.resetUnwritten with inbox := [.host (.unpairClient 16)] } : State).inbox = .host (.unpairClient 16) :: [] ∧
    faultOf (.unpairClient 16) State.resetUnwritten = some (.unwrittenIdentity [.clientId, .clientSlot]) := by
  decide +kernel

theorem witness_RequestsArePure :
    Instr.queryNickname.isRequest ∧ (∃ t, exec .queryNickname known = .next t) ∧
    held.clientId = known.clientId ∧ held.clientSlot = known.clientSlot ∧ (Instr.pairClient 1 []).isPairing :=
  ⟨by decide +kernel, exec_completes (by decide +kernel), by decide +kernel⟩

theorem witness_PresentedChunksAreTheEncodedRequest :
    NameFits .queryNickname ∧ NameFits (.pairClient 1 fullName) ∧ (Instr.pairClient 1 fullName).isPairing ∧
    known.clientId = some 0x12345678 ∧ known.clientSlot = some 0x01 :=
  ⟨fun _ _ h => (nomatch h), fun _ _ h => by cases h; decide +kernel, by decide +kernel⟩

theorem witness_IdentityChangesOnlyByItsWrites :
    (after (.setClientId 5) known).any (fun t => t.clientId ≠ known.clientId) ∧
    (after (.setClientSlot 5) known).any (fun t => t.clientSlot ≠ known.clientSlot) ∧
    Instr.rxReset.isRequest = false ∧ Instr.queryNickname.isRequest ∧ Instr.queryNickname.isPairing = false := by
  decide +kernel

theorem witness_ClientIdShowsOnlyInCheckBytes :
    ∃ t, exec .queryNickname { known with clientId := some 0xFFFFFFFF } = .next t := exec_completes (by decide +kernel)

theorem witness_Idle :
    known.bufLen = 0 ∧ IsDelivery (.firstFragment [0x41, 0x00]) [0x41, 0x00] ∧ ([0x41, 0x00] : Bytes).length < 3 ∧
    IsDelivery (.continuationFragment [0x3F, 0x00, 0x02, 0x01]) [0x3F, 0x00, 0x02, 0x01] ∧
    (0 < ([0x01] : Bytes).length ∧ ([0x01] : Bytes).length < (2 : Byte).toNat) ∧
    (List.replicate 254 (0x00 : Byte)).length < (255 : Byte).toNat ∧ (1 : Byte) ≠ 0 ∧
    ([] : Bytes).length = (0 : Byte).toNat ∧ (List.replicate 255 (0x00 : Byte)).length = (255 : Byte).toNat ∧
    (0 : Byte).toNat < ([0x01] : Bytes).length := by unfold IsDelivery; decide +kernel

theorem witness_Continuation :
    held.Inv ∧ held.bufLen ≠ 0 ∧ held.expLen = some 10 ∧ IsDelivery (.continuationFragment []) [] ∧
    held.bufLen.toNat + (List.replicate 5 (0x00 : Byte)).length < (10 : Byte).toNat ∧
    held.bufLen.toNat + (List.replicate 6 (0x00 : Byte)).length = (10 : Byte).toNat ∧
    (10 : Byte).toNat < held.bufLen.toNat + (List.replicate 7 (0x00 : Byte)).length := by
  unfold IsDelivery; decide +kernel

theorem witness_RxResetClearsReassembly : known.Inv ∧ known.bufLen = 0 := by decide +kernel

theorem witness_RxStateTransitions :
    (known.Inv ∧ known.rxState = .idle ∧ ∃ t, exec (.firstFragment [0x41, 0x00, 0x02, 0x01]) known = .next t) ∧
    (held.Inv ∧ held.rxState = .accumulating ∧ ∃ t, exec .rxReset held = .next t) :=
  ⟨⟨by decide +kernel, by decide +kernel, exec_completes (by decide +kernel)⟩, by decide +kernel, by decide +kernel,
    exec_completes (by decide +kernel)⟩

theorem witness_OnlyFragmentsAndResetTouchReassembly :
    Instr.queryNickname.isFragment = false ∧ Instr.queryNickname ≠ .rxReset ∧ held.inbox = [] ∧
    ∃ t, exec .queryNickname held = .next t :=
  ⟨by decide +kernel, by decide +kernel, by decide +kernel, exec_completes (by decide +kernel)⟩

theorem witness_OperationsOnlyAppendOutputs : ∃ t, exec .queryNickname heldTail = .next t :=
  exec_completes (by decide +kernel)

theorem witness_EncoderAndReassemblerCommute :
    IsEncoderSide .queryNickname ∧ ¬ IsEncoderSide .rxReset ∧
    (∃ t u, exec .queryNickname held = .next t ∧ exec .rxReset t = .next u) ∧
    ∃ t u, exec .rxReset held = .next t ∧ exec .queryNickname t = .next u :=
  ⟨by unfold IsEncoderSide; decide +kernel, by unfold IsEncoderSide; decide +kernel,
    (exec_completes (i := .queryNickname) (s := held) (by decide +kernel)).elim fun _ h => ⟨_, _, h, rfl⟩,
    (exec_completes (i := .queryNickname) (s := held.clearReassembly) (by decide +kernel)).elim fun _ h => ⟨_, _, rfl, h⟩⟩

theorem witness_SplitPayloadIsDispatchedOnce :
    let s : State := { known with inbox := [.frag [0x41, 0x07, 0x03, 0xAA], .frag [], .frag [0xBB], .frag [0xCC]] }
    s.bufLen = 0 ∧ [0xAA] ≠ ([] : Bytes) ∧ [0xCC] ≠ ([] : Bytes) ∧
    ([0xAA, 0xBB, 0xCC] : Bytes) = [0xAA] ++ [[], [0xBB]].flatten ++ [0xCC] ∧ ([0xAA, 0xBB, 0xCC] : Bytes).length ≤ 255 ∧
    s.inbox = .frag (0x41 :: 0x07 :: BitVec.ofNat 8 ([0xAA, 0xBB, 0xCC] : Bytes).length :: [0xAA]) ::
      ([[], [0xBB]].map .frag ++ [.frag [0xCC]]) := by decide +kernel

theorem witness_EmptyPieceAfterCompletionIsShort :
    held.Inv ∧ held.bufLen ≠ 0 ∧ held.expLen = some 10 ∧
    held.bufLen.toNat + (List.replicate 6 (0x00 : Byte)).length = (10 : Byte).toNat ∧
    ∃ t, exec (.continuationFragment (List.replicate 6 0x00)) held = .next t :=
  ⟨by decide +kernel, by decide +kernel, by decide +kernel, by decide +kernel, exec_completes (by decide +kernel)⟩

theorem witness_StalePartialSwallowsNextNotification :
    held.bufLen ≠ 0 ∧ held.expLen = some 10 ∧ held.bufLen.toNat + ([0x01, 0x02] : Bytes).length + 3 < (10 : Byte).toNat := by
  decide +kernel

theorem witness_TempRoundTripWithinTenth :
    (tempDecode .a 0x00 ≤ 256 / 10 ∧ 256 / 10 ≤ tempDecode .a 0xFF) ∧
    (tempDecode .b 0x00 ≤ tempDecode .b 0xFF ∧ tempDecode .b 0xFF ≤ tempDecode .b 0xFF) := by decide +kernel

theorem witness_FixedLayoutEvents :
    (0x80 : Byte) ∈ [(0x01 : Byte), 0x80] ∧ (0x08 : Byte) ∈ [(0x00 : Byte), 0x04, 0x08] := by decide +kernel

/-- Ten characters of two bytes each, then for the other half a field that begins with a stray continuation byte. -/
theorem witness_TextPayloadsDecodeOrFail :
    (textBytes (List.replicate 10 'é')).length = 20 ∧ (textBytes (List.replicate 8 'é')).length = 16 ∧
    (textBytes (List.replicate 8 'é')).head? ≠ some 0 ∧
    ∀ cs, List.replicate 16 (0x80 : Byte) ≠ textBytes cs := by
  refine ⟨by decide +kernel, by decide +kernel, by decide +kernel, fun cs h => ?_⟩
  have hd := congrArg List.head? h
  match cs with
  | [] => simp [textBytes] at hd
  | c :: cs =>
    simp only [textBytes, List.flatMap_cons, String.utf8EncodeChar] at hd
    repeat' (split at hd)
    all_goals
      change some (0x80 : Byte) = some (BitVec.ofNat 8 _) at hd
      have hn := congrArg BitVec.toNat (Option.some.inj hd)
      rw [BitVec.toNat_ofNat] at hn
      change 128 = _ at hn
      omega

theorem witness_ListenerIsHandedEventsAndErrors :
    decodePayload .a 1 [0x80, 0x01] = .event 1 (.slots [0, 15]) ∧ ([0x80, 0x01] : Bytes).length ≠ 1 ∧
    decodePayload .a 1 (0xFF :: List.replicate 19 0x00) = .decodeError ∧ decodePayload .a 1 [] = .noEvent ∧
    Config.statusSuccess ∈ [Config.statusSuccess, Config.statusFailure] ∧
    ∃ status, status ∉ [Config.statusSuccess, Config.statusFailure] := by
  refine ⟨by decide +kernel, by decide +kernel, by decide +kernel, by decide +kernel, List.mem_cons_self .., ?_⟩
  have three : ∀ x y : Byte, ∃ z ∈ [(0 : Byte), 1, 2], z ≠ x ∧ z ≠ y := by
    intro x y
    by_cases h0 : (0 : Byte) ≠ x ∧ (0 : Byte) ≠ y
    · exact ⟨0, by simp, h0⟩
    · by_cases h1 : (1 : Byte) ≠ x ∧ (1 : Byte) ≠ y
      · exact ⟨1, by simp, h1⟩
      · refine ⟨2, by simp, ?_, ?_⟩ <;> rintro rfl <;> simp_all <;>
          exact absurd (‹0#8 = _›.trans ‹1#8 = _›.symm) (by decide)
  obtain ⟨z, -, hx, hy⟩ := three Config.statusSuccess Config.statusFailure
  exact ⟨z, by simp [hx, hy]⟩

/-- A bound of 20 with a fragment of exactly 20 bytes to come. -/
theorem witness_StepKeepsTheDeliveryBound :
    let s : State := { known with inbox := [.frag [], .frag (List.replicate 20 0x00)] }
    s.Deliverable (some 20) ∧ ∃ t, step s = .next t := by
  refine ⟨fun f hf => ?_, step_completes (by decide +kernel)⟩
  rcases List.mem_cons.mp hf with h | h
  · cases h
    decide +kernel
  · cases List.mem_singleton.mp h
    decide +kernel

end Sys2Proof.Tests
end

/-! ## The transport's bound on the fragments to come (R12, R59)

No operation touches the inputs still to be taken, so a step leaves the tail of the old list; a bound on every fragment
of a list holds of its tail. -/

namespace Sys2Proof.Machine

/-- Everything a completing notification can do, in any state (R201). -/
theorem completeNotification_next {f : Bytes} {s t : State} (h : completeNotification f s = .next t) :
    ∃ slot held, s.pendSlot = some slot ∧ memRead s 0 s.bufLen.toNat = .ok held ∧
      t = (s.emit [.dispatch slot (held ++ f)]).clearReassembly := by
  unfold completeNotification at h
  split at h
  · cases h
  · cases h
  · next held slot hread hslot =>
    cases h
    exact ⟨slot, held, hslot, hread, rfl⟩

/-- Everything an Accumulating step that answers a next state can do, in any state, the invariant or not
(R200 to R202). -/
theorem accumulatingStep_next {f : Bytes} {s t : State} (h : accumulatingStep f s = .next t) :
    ∃ exp, s.expLen = some exp ∧
      ((s.bufLen.toNat + f.length < exp.toNat ∧ t = storedMore s f) ∨
       (s.bufLen.toNat + f.length = exp.toNat ∧ completeNotification f s = .next t) ∨
       (exp.toNat < s.bufLen.toNat + f.length ∧
         t = (s.raise (.lengthMismatch exp.toNat (s.bufLen.toNat + f.length))).clearReassembly)) := by
  cases he : s.expLen with
  | none => simp [accumulatingStep, he] at h
  | some exp =>
    refine ⟨exp, rfl, ?_⟩
    rcases Nat.lt_trichotomy (s.bufLen.toNat + f.length) exp.toNat with hlt | heq | hgt
    · rw [accumulatingStep_extend he hlt] at h
      cases h
      exact .inl ⟨hlt, rfl⟩
    · have hcomplete : accumulatingStep f s = completeNotification f s := by simp [accumulatingStep, he, heq]
      exact .inr (.inl ⟨heq, hcomplete ▸ h⟩)
    · rw [accumulatingStep_overflow he hgt] at h
      cases h
      exact .inr (.inr ⟨hgt, rfl⟩)

@[simp] theorem storedFirst_inbox (s : State) (slot exp : Byte) (init : Bytes) :
    (storedFirst s slot exp init).inbox = s.inbox := rfl
@[simp] theorem storedMore_inbox (s : State) (f : Bytes) : (storedMore s f).inbox = s.inbox := rfl

theorem authenticatedRequest_inbox {opcode : Byte} {args : Bytes} {s t : State}
    (h : authenticatedRequest opcode args s = .next t) : t.inbox = s.inbox := by
  obtain ⟨id, slot, -, -, rfl⟩ := authenticatedRequest_next h
  exact buildAndSend_inbox ..

theorem execPairClient_inbox {newId : Word} {name : Bytes} {s t : State}
    (h : execPairClient newId name s = .next t) : t.inbox = s.inbox := by
  unfold execPairClient at h
  split at h
  · cases h
    exact State.raise_inbox ..
  · cases h
    exact buildAndSend_inbox ..

theorem idleStep_inbox {f : Bytes} {s t : State} (h : idleStep f s = .next t) : t.inbox = s.inbox := by
  rcases idleStep_cases f s with
    ⟨-, e⟩ | ⟨_, _, _, _, -, ⟨-, -, e⟩ | ⟨-, -, e⟩ | ⟨-, e⟩ | ⟨-, e⟩⟩ <;>
  · rw [e] at h
    cases h
    simp

theorem accumulatingStep_inbox {f : Bytes} {s t : State} (h : accumulatingStep f s = .next t) :
    t.inbox = s.inbox := by
  obtain ⟨exp, -, ⟨-, rfl⟩ | ⟨-, hc⟩ | ⟨-, rfl⟩⟩ := accumulatingStep_next h
  · simp
  · obtain ⟨slot, held, -, -, rfl⟩ := completeNotification_next hc
    simp
  · simp

theorem fragmentStep_inbox {f : Bytes} {s t : State} (h : fragmentStep f s = .next t) : t.inbox = s.inbox := by
  cases hr : s.rxState with
  | idle => exact idleStep_inbox (fragmentStep_idle hr f ▸ h)
  | accumulating => exact accumulatingStep_inbox (fragmentStep_accumulating hr f ▸ h)

/-- No operation takes, adds or reorders inputs; only `step` takes one. -/
theorem exec_inbox {i : Instr} {s t : State} (h : exec i s = .next t) : t.inbox = s.inbox := by
  cases i with
  | queryClientSlots | queryClientDetails | queryDeviceSettings | queryDeviceState | queryNickname
  | queryOutletSettings | queryPresetDetails | queryPresetSlots | queryTechnicalInfo | unpairClient
  | controlOutlets | startPreset => exact authenticatedRequest_inbox h
  | pairClient => exact execPairClient_inbox h
  | firstFragment | continuationFragment => exact fragmentStep_inbox h
  | setClientId | setClientSlot | rxReset =>
    cases h
    rfl

/-- A step takes the oldest input, where there is one, and leaves the others as they are. -/
theorem step_inbox {s t : State} (h : step s = .next t) : t.inbox = s.inbox.tail := by
  rcases step_cases h with ⟨hempty, rfl⟩ | ⟨x, rest, i, hin, -, -, hexec⟩
  · rw [hempty, List.tail_nil]
  · rw [hin, List.tail_cons, exec_inbox hexec, State.takeInput_inbox]

/-- Settles O56: what a step leaves to be delivered was to be delivered before (`step_inbox`), and the default bound
admits every fragment. -/
theorem stepKeepsTheDeliveryBound : Obligations.StepKeepsTheDeliveryBound := by
  refine ⟨fun fragMax s t hbound hstep f hf => ?_, fun s f _ => transportAdmits_unbounded f⟩
  rw [step_inbox hstep] at hf
  exact hbound f (List.mem_of_mem_tail hf)

end Sys2Proof.Machine

/-! ## The seven elements of the state and what an operation can do to them (10_state.md)

What each operation means is split once, by `execKind`, and every statement about all operations follows that split;
what a fragment step reads and writes is said once, by `fragmentStep_local`, from which the frame of the identity
registers and the noninterference of `CLIENT_ID` follow. -/

namespace Sys2Proof.Machine

open Sys2Proof.Claims

/-! ### The six kinds of operation -/

/-- The meanings that `exec` gives: the twelve authenticated requests are one, and the two labels of a delivery are
one. -/
inductive ExecKind : Instr → Prop where
  | authenticated {i : Instr} (opcode : Byte) (args : Bytes) (hargs : encodeArgs i = some (opcode, args))
      (hexec : ∀ s, exec i s = authenticatedRequest opcode args s) : ExecKind i
  | pairing (newId : Word) (name : Bytes) : ExecKind (.pairClient newId name)
  | delivery {i : Instr} (f : Bytes) (hdelivery : IsDelivery i f)
      (hexec : ∀ s, exec i s = fragmentStep f s) : ExecKind i
  | writeId (v : Word) : ExecKind (.setClientId v)
  | writeSlot (v : Byte) : ExecKind (.setClientSlot v)
  | reset : ExecKind .rxReset

theorem execKind (i : Instr) : ExecKind i := by
  cases i with
  | queryClientSlots | queryClientDetails | queryDeviceSettings | queryDeviceState | queryNickname
  | queryOutletSettings | queryPresetDetails | queryPresetSlots | queryTechnicalInfo | unpairClient
  | controlOutlets | startPreset => exact .authenticated _ _ rfl fun _ => rfl
  | pairClient newId name => exact .pairing newId name
  | firstFragment f => exact .delivery f (.inl rfl) fun _ => rfl
  | continuationFragment f => exact .delivery f (.inr rfl) fun _ => rfl
  | setClientId v => exact .writeId v
  | setClientSlot v => exact .writeSlot v
  | rxReset => exact .reset

/-- Every request but `PAIR_CLIENT` is an authenticated request with the opcode and the arguments of its row (R92). -/
theorem exec_authenticated {i : Instr} (hrequest : i.isRequest) (hpairing : i.isPairing = false) :
    ∃ opcode args, encodeArgs i = some (opcode, args) ∧ ∀ s, exec i s = authenticatedRequest opcode args s := by
  cases execKind i with
  | authenticated opcode args hargs hexec => exact ⟨opcode, args, hargs, hexec⟩
  | pairing => cases hpairing
  | delivery f hdelivery => rcases hdelivery with rfl | rfl <;> cases hrequest
  | writeId | writeSlot | reset => cases hrequest

@[simp] theorem exec_setClientId (v : Word) (s : State) : exec (.setClientId v) s = .next (s.writeClientId v) :=
  rfl
@[simp] theorem exec_setClientSlot (w : Byte) (s : State) : exec (.setClientSlot w) s = .next (s.writeClientSlot w) :=
  rfl
@[simp] theorem exec_rxReset (s : State) : exec .rxReset s = .next s.clearReassembly := rfl

theorem exec_pairClient_long {name : Bytes} (h : Config.nameLen < name.length) (newId : Word) (s : State) :
    exec (.pairClient newId name) s = .next (s.raise (.nameTooLong name.length)) :=
  if_pos h

theorem exec_pairClient_fits {name : Bytes} (h : name.length ≤ Config.nameLen) (newId : Word) (s : State) :
    exec (.pairClient newId name) s = .next (buildAndSend 0x00 0xEB (pairArgs newId name) Config.magicId s) :=
  if_neg (Nat.not_lt.2 h)

/-- Everything a pairing request that completes can do (R153, R159). -/
theorem exec_pairClient_next {newId : Word} {name : Bytes} {s t : State}
    (h : exec (.pairClient newId name) s = .next t) :
    (Config.nameLen < name.length ∧ t = s.raise (.nameTooLong name.length)) ∨
    (name.length ≤ Config.nameLen ∧ t = buildAndSend 0x00 0xEB (pairArgs newId name) Config.magicId s) := by
  rcases Nat.lt_or_ge Config.nameLen name.length with hn | hn
  · cases (exec_pairClient_long hn newId s).symm.trans h
    exact .inl ⟨hn, rfl⟩
  · cases (exec_pairClient_fits hn newId s).symm.trans h
    exact .inr ⟨hn, rfl⟩

/-- The pairing request completes in every state, identity written or not (R41, R153). -/
theorem exec_pairClient_completes (newId : Word) (name : Bytes) (s : State) :
    ∃ t, exec (.pairClient newId name) s = .next t := by
  rcases Nat.lt_or_ge Config.nameLen name.length with h | h
  · exact ⟨_, exec_pairClient_long h newId s⟩
  · exact ⟨_, exec_pairClient_fits h newId s⟩

/-! ### The Idle step, case by case -/

theorem idleStep_short {f : Bytes} (h : f.length < 3) (s : State) :
    idleStep f s = .next (s.raise (.shortFragment f.length)) := by
  match f, h with
  | [], _ | [_], _ | [_, _], _ => rfl

theorem idleStep_store {init : Bytes} {exp : Byte} (h0 : init ≠ []) (h : init.length < exp.toNat) (marker x : Byte)
    (s : State) : idleStep (marker :: x :: exp :: init) s = .next (storedFirst s (markerSlot marker) exp init) :=
  idleParsed_store h0 h

theorem idleStep_headerAlone {exp : Byte} (h : 0 < exp.toNat) (marker x : Byte) (s : State) :
    idleStep [marker, x, exp] s = .next s := by
  simp [idleStep, idleParsed, h]

theorem idleStep_complete {init : Bytes} {exp : Byte} (h : init.length = exp.toNat) (marker x : Byte) (s : State) :
    idleStep (marker :: x :: exp :: init) s = .next (s.emit [.dispatch (markerSlot marker) init]) := by
  simp [idleStep, idleParsed, h]

theorem idleStep_overlong {init : Bytes} {exp : Byte} (h : exp.toNat < init.length) (marker x : Byte) (s : State) :
    idleStep (marker :: x :: exp :: init) s = .next (s.raise (.lengthMismatch exp.toNat init.length)) := by
  simp [idleStep, idleParsed, Nat.not_lt.2 h.le, h.ne']

/-- The Idle step never stops the machine (R190). -/
theorem idleStep_completes (f : Bytes) (s : State) : ∃ t, idleStep f s = .next t := by
  rcases idleStep_cases f s with
    ⟨-, e⟩ | ⟨_, _, _, _, -, ⟨-, -, e⟩ | ⟨-, -, e⟩ | ⟨-, e⟩ | ⟨-, e⟩⟩ <;> exact ⟨_, e⟩

/-! ### What a fragment step reads and writes -/

/-- The two states hold the same in the four reassembly registers (R25 to R28). -/
def SameReassembly (s t : State) : Prop :=
  t.buf = s.buf ∧ t.bufLen = s.bufLen ∧ t.pendSlot = s.pendSlot ∧ t.expLen = s.expLen

/-- `s` with the reassembly registers of `r` and some outputs more. -/
def State.withReassembly (s r : State) (out : List Output) : State :=
  { s with
    buf := r.buf, bufLen := r.bufLen, pendSlot := r.pendSlot, expLen := r.expLen, outbox := s.outbox ++ out }

theorem SameReassembly.refl (s : State) : SameReassembly s s := ⟨rfl, rfl, rfl, rfl⟩

theorem SameReassembly.rxState {s t : State} (h : SameReassembly s t) : t.rxState = s.rxState := by
  simp only [State.rxState, h.2.1]

theorem emit_eq_withReassembly {s t : State} (h : SameReassembly s t) (out out' : List Output) :
    t.emit out = t.withReassembly (s.emit out') out := by
  obtain ⟨hbuf, hlen, hslot, hexp⟩ := h
  simp [State.emit, State.withReassembly, ← hbuf, ← hlen, ← hslot, ← hexp]

/-- An Idle step reads nothing but the fragment and the reassembly registers, and writes these and the ports. -/
theorem idleStep_local {f : Bytes} {s t : State} (h : idleStep f s = .next t) :
    ∃ out, ∀ s', SameReassembly s s' → idleStep f s' = .next (s'.withReassembly t out) := by
  rcases idleStep_cases f s with
    ⟨hshort, e⟩ | ⟨marker, x, exp, init, rfl, ⟨h0, hlt, e⟩ | ⟨rfl, hpos, e⟩ | ⟨heq, e⟩ | ⟨hgt, e⟩⟩
  all_goals
    rw [e] at h
    cases h
  · refine ⟨[.diag (.shortFragment f.length)], fun s' hs => ?_⟩
    rw [idleStep_short hshort]
    exact congrArg _ (emit_eq_withReassembly hs _ _)
  · refine ⟨[], fun s' ⟨hbuf, _, _, _⟩ => ?_⟩
    rw [idleStep_store h0 hlt]
    simp [storedFirst, State.withReassembly, hbuf]
  · refine ⟨[], fun s' ⟨hbuf, hlen, hslot, hexp⟩ => ?_⟩
    rw [idleStep_headerAlone hpos]
    simp [State.withReassembly, ← hbuf, ← hlen, ← hslot, ← hexp]
  · refine ⟨[.dispatch (markerSlot marker) init], fun s' hs => ?_⟩
    rw [idleStep_complete heq]
    exact congrArg _ (emit_eq_withReassembly hs _ _)
  · refine ⟨[.diag (.lengthMismatch exp.toNat init.length)], fun s' hs => ?_⟩
    rw [idleStep_overlong hgt]
    exact congrArg _ (emit_eq_withReassembly hs _ _)

/-- An Accumulating step reads nothing but the fragment and the reassembly registers, and writes these and the ports. -/
theorem accumulatingStep_local {f : Bytes} {s t : State} (h : accumulatingStep f s = .next t) :
    ∃ out, ∀ s', SameReassembly s s' → accumulatingStep f s' = .next (s'.withReassembly t out) := by
  obtain ⟨exp, he, ⟨hlt, rfl⟩ | ⟨heq, hcomplete⟩ | ⟨hgt, rfl⟩⟩ := accumulatingStep_next h
  · refine ⟨[], fun s' ⟨hbuf, hlen, hslot, hexp⟩ => ?_⟩
    rw [accumulatingStep_extend (hexp.trans he) (by rwa [hlen])]
    simp [storedMore, State.withReassembly, hbuf, hlen, ← hslot, ← hexp]
  · obtain ⟨slot, held, hs, hread, rfl⟩ := completeNotification_next hcomplete
    refine ⟨[.dispatch slot (held ++ f)], fun s' ⟨hbuf, hlen, hslot, hexp⟩ => ?_⟩
    have hread' : memRead s' 0 s'.bufLen.toNat = .ok held := by rw [memRead_congr hbuf, hlen, hread]
    rw [accumulatingStep_complete (hexp.trans he) (hslot.trans hs) (by rwa [hlen]) hread']
    simp [State.emit, State.clearReassembly, State.withReassembly, hbuf]
  · refine ⟨[.diag (.lengthMismatch exp.toNat (s.bufLen.toNat + f.length))], fun s' ⟨hbuf, hlen, _, hexp⟩ => ?_⟩
    rw [accumulatingStep_overflow (hexp.trans he) (by rwa [hlen])]
    simp [State.raise, Cause.report, State.emit, State.clearReassembly, State.withReassembly, hbuf, hlen]

/-- A fragment step is a function of the fragment and the reassembly registers, and writes these and the ports: from
every state with the same four registers it completes, with the same four registers after it and the same outputs
(R66, R190). -/
theorem fragmentStep_local {f : Bytes} {s t : State} (h : fragmentStep f s = .next t) :
    ∃ r out, t = s.withReassembly r out ∧
      ∀ s', SameReassembly s s' → fragmentStep f s' = .next (s'.withReassembly r out) := by
  have hlocal : ∃ out, ∀ s', SameReassembly s s' → fragmentStep f s' = .next (s'.withReassembly t out) := by
    cases hr : s.rxState with
    | idle =>
      obtain ⟨out, hout⟩ := idleStep_local (fragmentStep_idle hr f ▸ h)
      exact ⟨out, fun s' hs => (fragmentStep_idle (hs.rxState.trans hr) f).trans (hout s' hs)⟩
    | accumulating =>
      obtain ⟨out, hout⟩ := accumulatingStep_local (fragmentStep_accumulating hr f ▸ h)
      exact ⟨out, fun s' hs => (fragmentStep_accumulating (hs.rxState.trans hr) f).trans (hout s' hs)⟩
  obtain ⟨out, hout⟩ := hlocal
  exact ⟨t, out, Host.Outcome.next.inj (h.symm.trans (hout s (.refl s))), hout⟩

/-! ### The reassembly invariant (R30, R31) -/

/-- The invariant speaks of the reassembly registers alone. -/
theorem State.Inv.congr {s t : State} (hi : s.Inv) (h : SameReassembly s t) : t.Inv := by
  obtain ⟨hbuf, hlen, hslot, hexp⟩ := h
  simpa only [State.Inv, hbuf, hlen, hslot, hexp] using hi

theorem State.Inv.clearReassembly {s : State} (hi : s.Inv) : s.clearReassembly.Inv :=
  ⟨hi.1, by simp⟩

/-- While a notification is in flight the invariant asks for `n` held bytes, fewer than are expected. -/
theorem State.Inv.of_held {s : State} {n : Nat} {slot exp : Byte} (hwf : s.buf.wf) (hlen : s.bufLen = BitVec.ofNat 8 n)
    (hslot : s.pendSlot = some slot) (hexp : s.expLen = some exp) (hpos : 0 < n) (hlt : n < exp.toNat)
    (hheld : ∀ a < n, (s.buf.read a).isSome) : s.Inv := by
  have hnat : s.bufLen.toNat = n := by
    rw [hlen, BitVec.toNat_ofNat, Nat.mod_eq_of_lt (hlt.trans exp.isLt)]
  have hne : s.bufLen ≠ 0 := fun hz => by
    rw [hz] at hnat
    exact hpos.ne hnat
  refine ⟨hwf, ?_, ?_, ?_, by rwa [hnat]⟩
  · simp only [hslot, Option.isSome_some, true_iff]
    exact hne
  · simp only [hexp, Option.isSome_some, true_iff]
    exact hne
  · simpa [hexp, hnat] using hlt

/-- Storing the first piece of a payload opens a notification in flight (R195). -/
theorem storedFirst_inv {s : State} (hi : s.Inv) {exp : Byte} {init : Bytes} (h0 : init ≠ [])
    (h : init.length < exp.toNat) (slot : Byte) : (storedFirst s slot exp init).Inv := by
  have hexp : exp.toNat < 256 := exp.isLt
  have hcap : 0 + init.length ≤ Config.bufCap := by simp only [Config.bufCap]; omega
  refine .of_held (Memory.wf_writeBytes init hi.1 hcap) rfl rfl rfl (List.length_pos_of_ne_nil h0) h fun a ha => ?_
  simp only [storedFirst, Memory.read_writeBytes]
  rw [if_pos (by omega)]
  simpa using ha

/-- A continuation that leaves the payload incomplete extends the held bytes and stays below what is expected
(R200). -/
theorem storedMore_inv {s : State} (hi : s.Inv) (hacc : s.rxState = .accumulating) {exp : Byte} {f : Bytes}
    (he : s.expLen = some exp) (h : s.bufLen.toNat + f.length < exp.toNat) : (storedMore s f).Inv := by
  obtain ⟨slot, _, _, hslot, -, -, hpos, -⟩ := hi.accumulating hacc
  obtain ⟨hwf, -, -, -, hheld⟩ := hi
  have hexp : exp.toNat < 256 := exp.isLt
  have hcap : s.bufLen.toNat + f.length ≤ Config.bufCap := by simp only [Config.bufCap]; omega
  refine .of_held (Memory.wf_writeBytes f hwf hcap) rfl hslot he (by omega) h fun a ha => ?_
  simp only [storedMore, Memory.read_writeBytes]
  split
  · rw [List.getElem?_eq_getElem (by omega), Option.isSome_some]
  · exact hheld a (by omega)

theorem idleStep_inv {f : Bytes} {s t : State} (hi : s.Inv) (h : idleStep f s = .next t) : t.Inv := by
  rcases idleStep_cases f s with
    ⟨-, e⟩ | ⟨marker, x, exp, init, -, ⟨h0, hlt, e⟩ | ⟨-, -, e⟩ | ⟨-, e⟩ | ⟨-, e⟩⟩
  all_goals
    rw [e] at h
    cases h
  · exact hi.congr ⟨rfl, rfl, rfl, rfl⟩
  · exact storedFirst_inv hi h0 hlt _
  · exact hi
  · exact hi.congr ⟨rfl, rfl, rfl, rfl⟩
  · exact hi.congr ⟨rfl, rfl, rfl, rfl⟩

theorem accumulatingStep_inv {f : Bytes} {s t : State} (hi : s.Inv) (hacc : s.rxState = .accumulating)
    (h : accumulatingStep f s = .next t) : t.Inv := by
  obtain ⟨exp, he, ⟨hlt, rfl⟩ | ⟨-, hcomplete⟩ | ⟨-, rfl⟩⟩ := accumulatingStep_next h
  · exact storedMore_inv hi hacc he hlt
  · obtain ⟨slot, held, -, -, rfl⟩ := completeNotification_next hcomplete
    exact (hi.congr ⟨rfl, rfl, rfl, rfl⟩).clearReassembly
  · exact (hi.congr ⟨rfl, rfl, rfl, rfl⟩).clearReassembly

theorem fragmentStep_inv {f : Bytes} {s t : State} (hi : s.Inv) (h : fragmentStep f s = .next t) : t.Inv := by
  cases hr : s.rxState with
  | idle => exact idleStep_inv hi (fragmentStep_idle hr f ▸ h)
  | accumulating => exact accumulatingStep_inv hi hr (fragmentStep_accumulating hr f ▸ h)

/-- Every operation keeps the reassembly invariant: a fragment by the step it is, `RX_RESET` by clearing, and no other
operation touches the registers the invariant speaks of. -/
theorem exec_inv {i : Instr} {s t : State} (hi : s.Inv) (h : exec i s = .next t) : t.Inv := by
  cases execKind i with
  | authenticated opcode args _ hexec =>
    obtain ⟨id, slot, -, -, rfl⟩ := authenticatedRequest_next (hexec s ▸ h)
    exact hi.congr ⟨rfl, rfl, rfl, rfl⟩
  | pairing newId name =>
    obtain ⟨-, rfl⟩ | ⟨-, rfl⟩ := exec_pairClient_next h
    · exact hi.congr ⟨rfl, rfl, rfl, rfl⟩
    · exact hi.congr ⟨rfl, rfl, rfl, rfl⟩
  | delivery f _ hexec => exact fragmentStep_inv hi (hexec s ▸ h)
  | writeId | writeSlot =>
    cases h
    exact hi.congr ⟨rfl, rfl, rfl, rfl⟩
  | reset =>
    cases h
    exact hi.clearReassembly

/-- Settles O3: an idle step changes nothing, and any other runs one operation (`exec_inv`) on a state whose reassembly
registers are those before the step. -/
theorem stepKeepsReassemblyInvariant : Obligations.StepKeepsReassemblyInvariant := by
  intro s t hi hstep
  rcases step_cases hstep with ⟨-, rfl⟩ | ⟨x, rest, i, -, -, -, hexec⟩
  · exact hi
  · exact exec_inv (s := s.takeInput rest) (hi.congr ⟨rfl, rfl, rfl, rfl⟩) hexec

/-! ### Launch and the identity registers (R22 to R24, R38 to R41) -/

/-- The fault on unwritten identity names the registers without a value, and no other (log entry 1). -/
theorem mem_unwritten (s : State) :
    (.clientId ∈ s.unwritten ↔ s.clientId = none) ∧ (.clientSlot ∈ s.unwritten ↔ s.clientSlot = none) := by
  simp [State.unwritten]

/-- Everything an operation that completes can do to the two identity registers: only its own write touches either. -/
theorem exec_identity {i : Instr} {s t : State} (h : exec i s = .next t) :
    (t.clientId = s.clientId ∨ ∃ v, i = .setClientId v ∧ t.clientId = some v) ∧
    (t.clientSlot = s.clientSlot ∨ ∃ v, i = .setClientSlot v ∧ t.clientSlot = some v) := by
  cases execKind i with
  | authenticated opcode args _ hexec =>
    obtain ⟨id, slot, -, -, rfl⟩ := authenticatedRequest_next (hexec s ▸ h)
    exact ⟨.inl rfl, .inl rfl⟩
  | pairing newId name =>
    obtain ⟨-, rfl⟩ | ⟨-, rfl⟩ := exec_pairClient_next h
    · exact ⟨.inl rfl, .inl rfl⟩
    · exact ⟨.inl rfl, .inl rfl⟩
  | delivery f _ hexec =>
    obtain ⟨r, out, rfl, -⟩ := fragmentStep_local (hexec s ▸ h)
    exact ⟨.inl rfl, .inl rfl⟩
  | writeId v =>
    cases h
    exact ⟨.inr ⟨v, rfl, rfl⟩, .inl rfl⟩
  | writeSlot v =>
    cases h
    exact ⟨.inl rfl, .inr ⟨v, rfl, rfl⟩⟩
  | reset =>
    cases h
    exact ⟨.inl rfl, .inl rfl⟩

/-- No operation takes a value away from an identity register. -/
theorem exec_identityWritten {i : Instr} {s t : State} (hw : s.IdentityWritten) (h : exec i s = .next t) :
    t.IdentityWritten := by
  obtain ⟨hid, hslot⟩ := exec_identity h
  refine ⟨?_, ?_⟩
  · rcases hid with he | ⟨v, -, he⟩ <;> rw [he]
    · exact hw.1
    · rfl
  · rcases hslot with he | ⟨v, -, he⟩ <;> rw [he]
    · exact hw.2
    · rfl

/-! ### The faults of the reassembler are the model's own and have no code of R260 -/

theorem Memory.readBytes_fault_code {m : Memory} {a n : Nat} {r : Fault} (h : m.readBytes a n = .error r) :
    r.code = none := by
  induction n generalizing a with
  | zero => cases h
  | succ n ih =>
    simp only [Memory.readBytes] at h
    split at h
    · cases h
      rfl
    · split at h
      · cases h
      · next hrest =>
        cases h
        exact ih hrest

theorem memRead_fault_code {s : State} {a n : Nat} {r : Fault} (h : memRead s a n = .error r) : r.code = none := by
  unfold memRead at h
  split at h
  · exact Memory.readBytes_fault_code h
  · cases h
    rfl

theorem completeNotification_fault_code {f : Bytes} {s : State} {r : Fault}
    (h : completeNotification f s = .fault r) : r.code = none := by
  unfold completeNotification at h
  split at h
  · next hread =>
    cases h
    exact memRead_fault_code hread
  · cases h
    rfl
  · cases h

theorem accumulatingStep_fault_code {f : Bytes} {s : State} {r : Fault} (h : accumulatingStep f s = .fault r) :
    r.code = none := by
  cases he : s.expLen with
  | none =>
    simp only [accumulatingStep, he] at h
    cases h
    rfl
  | some exp =>
    rcases Nat.lt_trichotomy (s.bufLen.toNat + f.length) exp.toNat with hlt | heq | hgt
    · cases (accumulatingStep_extend he hlt).symm.trans h
    · have hcomplete : accumulatingStep f s = completeNotification f s := by simp [accumulatingStep, he, heq]
      exact completeNotification_fault_code (hcomplete ▸ h)
    · cases (accumulatingStep_overflow he hgt).symm.trans h

theorem fragmentStep_fault_code {f : Bytes} {s : State} {r : Fault} (h : fragmentStep f s = .fault r) :
    r.code = none := by
  cases hr : s.rxState with
  | idle =>
    obtain ⟨t, ht⟩ := idleStep_completes f s
    cases ht.symm.trans (fragmentStep_idle hr f ▸ h)
  | accumulating => exact accumulatingStep_fault_code (fragmentStep_accumulating hr f ▸ h)

/-- With identity written, `UNWRITTEN_IDENTITY` is not raised: an authenticated request completes, and no other
operation reads identity. -/
theorem exec_written_ne_fault {i : Instr} {s : State} (hw : s.IdentityWritten) (regs : List IdentityRegister) :
    exec i s ≠ .fault (.unwrittenIdentity regs) := by
  intro h
  cases execKind i with
  | authenticated opcode args _ hexec =>
    obtain ⟨id, hid⟩ := Option.isSome_iff_exists.1 hw.1
    obtain ⟨slot, hslot⟩ := Option.isSome_iff_exists.1 hw.2
    cases (authenticatedRequest_written hid hslot opcode args).symm.trans (hexec s ▸ h)
  | pairing newId name =>
    obtain ⟨t, ht⟩ := exec_pairClient_completes newId name s
    cases ht.symm.trans h
  | delivery f _ hexec => cases fragmentStep_fault_code (hexec s ▸ h)
  | writeId | writeSlot | reset => cases h

/-- A step that faults ran an operation that faults, on the state without the input it took. -/
theorem step_fault {s : State} {r : Fault} (h : step s = .fault r) :
    ∃ rest i, exec i (s.takeInput rest) = .fault r := by
  unfold step at h
  split at h
  · cases h
  · next x rest _ =>
    split at h
    · cases h
    · next i _ =>
      split at h
      · cases h
      · exact ⟨rest, i, h⟩

/-- Settles O24: no operation takes an identity value away (`exec_identityWritten`) and none faults for want of one that
is there (`exec_written_ne_fault`). -/
theorem writtenIdentityNeverFaults : Obligations.WrittenIdentityNeverFaults := by
  refine ⟨⟨rfl, rfl⟩, fun s t hw hstep => ?_, fun s regs hw hstep => ?_, fun s t u v w ht hu => ?_⟩
  · rcases step_cases hstep with ⟨-, rfl⟩ | ⟨x, rest, i, -, -, -, hexec⟩
    · exact hw
    · exact exec_identityWritten (s := s.takeInput rest) hw hexec
  · obtain ⟨rest, i, hexec⟩ := step_fault hstep
    exact exec_written_ne_fault (s := s.takeInput rest) hw regs hexec
  · cases ht
    cases hu
    exact ⟨rfl, rfl⟩

/-! ### What a sent frame is on each port -/

/-- The outputs of `SEND_CHUNKS(frame)` with the result `OK` (R141 to R143). -/
def sentOutputs (f : Bytes) : List Output := (chunks Config.chunkSize f).map .tx ++ [.ok]

theorem buildAndSend_outbox_sent (dest opcode : Byte) (args : Bytes) (salt : Word) (s : State) :
    (buildAndSend dest opcode args salt s).outbox = s.outbox ++ sentOutputs (frame dest opcode args salt) :=
  buildAndSend_outbox dest opcode args salt s

@[simp] theorem txChunks_append (a b : List Output) : txChunks (a ++ b) = txChunks a ++ txChunks b :=
  List.filterMap_append

@[simp] theorem txChunks_sentOutputs (f : Bytes) : txChunks (sentOutputs f) = chunks Config.chunkSize f := by
  simp [txChunks, sentOutputs, List.filterMap_map]

@[simp] theorem dispatches_sentOutputs (f : Bytes) : dispatches (sentOutputs f) = [] := by
  simp [dispatches, sentOutputs]

@[simp] theorem diagnostics_sentOutputs (f : Bytes) : diagnostics (sentOutputs f) = [] := by
  simp [diagnostics, sentOutputs]

@[simp] theorem hostResults_sentOutputs (f : Bytes) : hostResults (sentOutputs f) = [none] := by
  simp [hostResults, sentOutputs]

/-- The chunks of a frame are together the frame (R88). -/
theorem chunks_flatten {size : Nat} (h : 1 ≤ size) (f : Bytes) : (chunks size f).flatten = f := by
  rw [chunks, flatten_map_chunk]
  exact List.take_of_length_le (Nat.not_lt.1 ((chunk_count h _ _).not.1 (Nat.lt_irrefl _)))

/-- The lengths of a frame's chunks follow from its length. -/
theorem chunks_lengths {size : Nat} {f g : Bytes} (h : f.length = g.length) :
    (chunks size f).map List.length = (chunks size g).map List.length := by
  simp [chunks, chunk, h, Function.comp_def]

/-- A frame without its two last bytes is its fields: the salt shows in the check bytes alone (R81, R86). -/
theorem frame_dropLast_dropLast (dest opcode : Byte) (args : Bytes) (salt : Word) :
    (frame dest opcode args salt).dropLast.dropLast = frameFields dest opcode args := by
  simp [frame, be16]

theorem sameButCheckBytes_refl (out : List Output) : SameButCheckBytes out out :=
  ⟨rfl, rfl, rfl, rfl, rfl⟩

/-- Frames that differ in the salt only look the same on every port but for the check bytes. -/
theorem sameButCheckBytes_frames (dest opcode : Byte) (args : Bytes) (a b : Word) :
    SameButCheckBytes (sentOutputs (frame dest opcode args a)) (sentOutputs (frame dest opcode args b)) := by
  simp only [SameButCheckBytes, txChunks_sentOutputs, dispatches_sentOutputs, diagnostics_sentOutputs,
    hostResults_sentOutputs, chunks_flatten (size := Config.chunkSize) (by decide), frame_dropLast_dropLast, and_self,
    and_true]
  exact chunks_lengths (by simp only [frame_length])

/-! ### Identity and the requests -/

/-- Settles O29: the frame of the identity registers (`exec_identity`), and an authenticated request after both writes,
whose chunks are its frame (`chunks_flatten`). -/
theorem identityChangesOnlyByItsWrites : Obligations.IdentityChangesOnlyByItsWrites := by
  refine ⟨fun i s t h => ?_, fun i s v w hrequest hpairing => ?_⟩
  · obtain ⟨hid, hslot⟩ := exec_identity h
    exact ⟨fun hne => (hid.resolve_left hne).imp fun _ hv => hv.1,
      fun hne => (hslot.resolve_left hne).imp fun _ hv => hv.1⟩
  · obtain ⟨opcode, args, hargs, hexec⟩ := exec_authenticated hrequest hpairing
    refine ⟨_, _, _, opcode, args, exec_setClientId v s, exec_setClientSlot w _, hargs,
      (hexec _).trans (authenticatedRequest_written rfl rfl opcode args), buildAndSend_crcReg .., ?_⟩
    rw [buildAndSend_outbox_sent, txChunks_append, List.flatten_append, txChunks_sentOutputs,
      chunks_flatten (by decide), buildAndSend_crcReg]
    rfl

/-- An authenticated request reads `CLIENT_ID` for the salt of its checksum alone (R22, R161). -/
theorem authenticatedRequest_clientId {opcode : Byte} {args : Bytes} {s t : State} {a : Word} (b : Word)
    (h : authenticatedRequest opcode args (s.writeClientId a) = .next t) :
    ∃ slot, t = buildAndSend slot opcode args a (s.writeClientId a) ∧
      authenticatedRequest opcode args (s.writeClientId b) =
        .next (buildAndSend slot opcode args b (s.writeClientId b)) := by
  obtain ⟨id, slot, hid, hslot, rfl⟩ := authenticatedRequest_next h
  cases hid
  exact ⟨slot, rfl, authenticatedRequest_written (s := s.writeClientId b) rfl hslot opcode args⟩

/-- Two frames sent from states that differ in `CLIENT_ID` leave states that differ in `CLIENT_ID`, `CRC_REG` and the
outputs. -/
theorem buildAndSend_writeClientId_frame (dest opcode : Byte) (args : Bytes) (salt salt' a b : Word) (s : State) :
    buildAndSend dest opcode args salt' (s.writeClientId b) =
      { buildAndSend dest opcode args salt (s.writeClientId a) with
        clientId := some b
        crcReg := (buildAndSend dest opcode args salt' (s.writeClientId b)).crcReg
        outbox := (buildAndSend dest opcode args salt' (s.writeClientId b)).outbox } := by
  simp only [buildAndSend_eq, State.writeClientId]

/-- Settles O30: an authenticated request takes its salt from `CLIENT_ID`, which the frame shows in its check bytes
alone (`sameButCheckBytes_frames`); no other operation reads the register, so its outputs are the same. -/
theorem clientIdShowsOnlyInCheckBytes : Obligations.ClientIdShowsOnlyInCheckBytes := by
  intro i s t a b h
  change exec i (s.writeClientId a) = .next t at h
  change ∃ u outA outB, exec i (s.writeClientId b) = .next u ∧ _
  cases execKind i with
  | authenticated opcode args _ hexec =>
    obtain ⟨slot, rfl, hother⟩ := authenticatedRequest_clientId b (hexec _ ▸ h)
    exact ⟨_, _, _, (hexec _).trans hother, buildAndSend_writeClientId_frame ..,
      buildAndSend_outbox_sent .., buildAndSend_outbox_sent .., sameButCheckBytes_frames slot opcode args a b⟩
  | pairing newId name =>
    obtain ⟨hn, rfl⟩ | ⟨hn, rfl⟩ := exec_pairClient_next h
    · exact ⟨_, _, _, exec_pairClient_long hn newId _, rfl, rfl, rfl, sameButCheckBytes_refl _⟩
    · exact ⟨_, _, _, exec_pairClient_fits hn newId _, buildAndSend_writeClientId_frame ..,
        buildAndSend_outbox_sent .., buildAndSend_outbox_sent .., sameButCheckBytes_refl _⟩
  | delivery f _ hexec =>
    obtain ⟨r, out, rfl, hlocal⟩ := fragmentStep_local (hexec _ ▸ h)
    have hother := hlocal (s.writeClientId b) ⟨rfl, rfl, rfl, rfl⟩
    exact ⟨_, out, out, (hexec _).trans hother, rfl, rfl, rfl, sameButCheckBytes_refl out⟩
  | writeId | writeSlot | reset =>
    cases h
    exact ⟨_, [], [], rfl, rfl, (List.append_nil _).symm, (List.append_nil _).symm, sameButCheckBytes_refl []⟩

/-! ### The state after reset -/

/-- Settles O1: the fields of `State.launch`, which `State.reset` is with both parameters given. -/
theorem resetLeavesIdleAndIdentityAsLaunched : Obligations.ResetLeavesIdleAndIdentityAsLaunched :=
  ⟨fun _ _ => ⟨rfl, rfl, rfl, rfl, rfl, rfl, rfl⟩, ⟨_, _, rfl⟩, rfl, rfl⟩

/-- Settles O22: every request but `PAIR_CLIENT` is an authenticated one, which faults where a register is unwritten and
names those that are (`mem_unwritten`); the pairing request completes everywhere. -/
theorem unwrittenIdentityFaults : Obligations.UnwrittenIdentityFaults := by
  refine ⟨fun i s hrequest hpairing hunwritten => ?_, fun _ _ newId name => exec_pairClient_completes newId name _⟩
  obtain ⟨opcode, args, -, hexec⟩ := exec_authenticated hrequest hpairing
  exact ⟨s.unwritten, (hexec s).trans (authenticatedRequest_unwritten hunwritten opcode args), mem_unwritten s⟩

/-- Settles O23: at reset identity is written, so an authenticated request completes, and the reassembler is Idle, where
every fragment completes (`idleStep_completes`). -/
theorem everyOperationRunsFromReset : Obligations.EveryOperationRunsFromReset := by
  intro i
  cases execKind i with
  | authenticated opcode args _ hexec =>
    exact ⟨_, (hexec _).trans (authenticatedRequest_written rfl rfl opcode args)⟩
  | pairing newId name => exact exec_pairClient_completes newId name _
  | delivery f _ hexec =>
    obtain ⟨t, ht⟩ := idleStep_completes f State.reset
    exact ⟨t, (hexec _).trans ((fragmentStep_idle rfl f).trans ht)⟩
  | writeId | writeSlot | reset => exact ⟨_, rfl⟩

end Sys2Proof.Machine

/-! ## The ports and the two sides of the block (20_memory.md)

An operation belongs to the encoder or to the reassembler. What either side reads, writes and presents is said once
(`exec_encoderSide`, `exec_reassemblerSide`); the legality of the ports, the growth of the outputs and the independence
of the two sides (R66) follow from these two. -/

namespace Sys2Proof.Machine

open Sys2Proof.Claims

/-! ### The selection of a step's operation (R59, R62, R191) -/

theorem step_noInput {s : State} (h : s.inbox = []) : step s = .next s := by
  simp only [step, h]

/-- A step whose oldest input is a well-formed operation is `exec` of that operation without the input. -/
theorem step_selected {s : State} {x : Input} {rest : List Input} {i : Instr} (hin : s.inbox = x :: rest)
    (hselect : selectInput s.rxState x = .ok i) (hwell : i.WellFormed) : step s = exec i (s.takeInput rest) := by
  simp only [step, hin, hselect, show i.illFormed = none from hwell]

theorem selectInput_host (rx : RxState) {i : Instr} (h : i.isHostCommand) : selectInput rx (.host i) = .ok i :=
  if_pos h

theorem selectInput_frag_idle {s : State} (h : s.bufLen = 0) (f : Bytes) :
    selectInput s.rxState (.frag f) = .ok (.firstFragment f) := by
  rw [(rxState_idle_iff s).2 h]
  rfl

theorem selectInput_frag_accumulating {s : State} (h : s.bufLen ≠ 0) (f : Bytes) :
    selectInput s.rxState (.frag f) = .ok (.continuationFragment f) := by
  rw [(rxState_accumulating_iff s).2 h]
  rfl

theorem selectInput_encoded (rx : RxState) {bs : Bytes} {i : Instr} (h : decodeFrame bs = .ok i) :
    selectInput rx (.encoded bs) = .ok i := by
  simp only [selectInput, h]

/-- Settles O5: each kind of input selects its operation (`step_selected`); a fragment is read by `RX_STATE`, which is
`BUF_LEN = 0` or not, and is always well-formed. -/
theorem stepRunsTheSelectedOperation : Obligations.StepRunsTheSelectedOperation := by
  refine fun s => ⟨step_noInput, fun rest i hin hhost hwell => ?_, fun rest f hin hlen => ?_,
    fun rest f hin hlen => ?_, fun rest bs i hin hdecode hwell => ?_⟩
  · exact step_selected hin (selectInput_host _ hhost) hwell
  · exact step_selected hin (selectInput_frag_idle hlen f) rfl
  · exact step_selected hin (selectInput_frag_accumulating hlen f) rfl
  · exact step_selected hin (selectInput_encoded _ hdecode) hwell

/-! ### What each side presents (R58, R60 to R62) -/

/-- Legal outputs on the encoder's ports, `TX` and `HOST`. -/
def EncoderOutputs (out : List Output) : Prop := ∀ o ∈ out, o.Legal ∧ (o.port = .tx ∨ o.port = .host)

/-- Legal outputs on the reassembler's ports, `DISPATCH` and `DIAG`. -/
def ReassemblerOutputs (out : List Output) : Prop := ∀ o ∈ out, o.Legal ∧ (o.port = .dispatch ∨ o.port = .diag)

/-- A chunk of a frame is not empty and at most as long as the chunk size (R88). -/
theorem length_of_mem_chunks {size : Nat} (hsize : 1 ≤ size) {f c : Bytes} (h : c ∈ chunks size f) :
    1 ≤ c.length ∧ c.length ≤ size := by
  obtain ⟨k, hk, rfl⟩ := List.mem_map.1 h
  have hoffset : size * k < f.length := (chunk_count hsize _ _).1 (List.mem_range.1 hk)
  simp only [chunk, List.length_take, List.length_drop]
  omega

theorem EncoderOutputs.nil : EncoderOutputs [] := List.forall_mem_nil _

theorem ReassemblerOutputs.nil : ReassemblerOutputs [] := List.forall_mem_nil _

theorem encoderOutputs_sentOutputs (f : Bytes) : EncoderOutputs (sentOutputs f) := by
  intro o ho
  rcases List.mem_append.1 ho with h | h
  · obtain ⟨c, hc, rfl⟩ := List.mem_map.1 h
    exact ⟨length_of_mem_chunks (by decide) hc, .inl rfl⟩
  · cases List.mem_singleton.1 h
    exact ⟨trivial, .inr rfl⟩

theorem encoderOutputs_nameTooLong (n : Nat) : EncoderOutputs [(Cause.nameTooLong n).report] :=
  List.forall_mem_singleton.2 ⟨trivial, .inr rfl⟩

theorem reassemblerOutputs_diag (c : Cause) : ReassemblerOutputs [.diag c] :=
  List.forall_mem_singleton.2 ⟨trivial, .inr rfl⟩

/-- A payload as long as `EXP_LEN` says is a legal dispatch, `EXP_LEN` being one byte (R60). -/
theorem reassemblerOutputs_dispatch {payload : Bytes} {exp : Byte} (h : payload.length = exp.toNat) (slot : Byte) :
    ReassemblerOutputs [.dispatch slot payload] :=
  List.forall_mem_singleton.2 ⟨show payload.length ≤ 255 from h ▸ Nat.le_of_lt_succ exp.isLt, .inl rfl⟩

theorem Memory.readBytes_length {m : Memory} {a n : Nat} {bs : Bytes} (h : m.readBytes a n = .ok bs) :
    bs.length = n := by
  induction n generalizing a bs with
  | zero =>
    cases h
    rfl
  | succ n ih =>
    simp only [Memory.readBytes] at h
    split at h
    · cases h
    · split at h
      · next hrest =>
        cases h
        rw [List.length_cons, ih hrest]
      · cases h

/-- A read of `n` bytes that succeeds gives `n` bytes. -/
theorem memRead_length {s : State} {a n : Nat} {bs : Bytes} (h : memRead s a n = .ok bs) : bs.length = n := by
  unfold memRead at h
  split at h
  · exact Memory.readBytes_length h
  · cases h

theorem idleStep_outputs {f : Bytes} {s t : State} (h : idleStep f s = .next t) :
    ∃ out, ReassemblerOutputs out ∧ t.outbox = s.outbox ++ out := by
  rcases idleStep_cases f s with
    ⟨-, e⟩ | ⟨_, _, _, _, -, ⟨-, -, e⟩ | ⟨-, -, e⟩ | ⟨heq, e⟩ | ⟨-, e⟩⟩
  all_goals
    rw [e] at h
    cases h
  · exact ⟨_, reassemblerOutputs_diag _, rfl⟩
  · exact ⟨_, .nil, (List.append_nil _).symm⟩
  · exact ⟨_, .nil, (List.append_nil _).symm⟩
  · exact ⟨_, reassemblerOutputs_dispatch heq _, rfl⟩
  · exact ⟨_, reassemblerOutputs_diag _, rfl⟩

theorem accumulatingStep_outputs {f : Bytes} {s t : State} (h : accumulatingStep f s = .next t) :
    ∃ out, ReassemblerOutputs out ∧ t.outbox = s.outbox ++ out := by
  obtain ⟨exp, -, ⟨-, rfl⟩ | ⟨heq, hcomplete⟩ | ⟨-, rfl⟩⟩ := accumulatingStep_next h
  · exact ⟨_, .nil, (List.append_nil _).symm⟩
  · obtain ⟨slot, held, -, hread, rfl⟩ := completeNotification_next hcomplete
    have hpayload : (held ++ f).length = exp.toNat := by rw [List.length_append, memRead_length hread, heq]
    exact ⟨_, reassemblerOutputs_dispatch hpayload slot, rfl⟩
  · exact ⟨_, reassemblerOutputs_diag _, rfl⟩

/-- A fragment step presents on the reassembler's ports alone, and legally, whether the invariant holds or not. -/
theorem fragmentStep_outputs {f : Bytes} {s t : State} (h : fragmentStep f s = .next t) :
    ∃ out, ReassemblerOutputs out ∧ t.outbox = s.outbox ++ out := by
  cases hr : s.rxState with
  | idle => exact idleStep_outputs (fragmentStep_idle hr f ▸ h)
  | accumulating => exact accumulatingStep_outputs (fragmentStep_accumulating hr f ▸ h)

/-! ### What each side reads and writes -/

/-- The two states hold the same in the three registers of the encoder (R21 to R23). -/
def SameEncoder (s t : State) : Prop :=
  t.crcReg = s.crcReg ∧ t.clientId = s.clientId ∧ t.clientSlot = s.clientSlot

/-- `s` with the encoder registers of `r` and some outputs more. -/
def State.withEncoder (s r : State) (out : List Output) : State :=
  { s with
    crcReg := r.crcReg, clientId := r.clientId, clientSlot := r.clientSlot, outbox := s.outbox ++ out }

theorem SameEncoder.refl (s : State) : SameEncoder s s := ⟨rfl, rfl, rfl⟩

theorem emit_eq_withEncoder {s t : State} (h : SameEncoder s t) (out out' : List Output) :
    t.emit out = t.withEncoder (s.emit out') out := by
  obtain ⟨hcrc, hid, hslot⟩ := h
  simp [State.emit, State.withEncoder, ← hcrc, ← hid, ← hslot]

theorem buildAndSend_eq_withEncoder {s t : State} (h : SameEncoder s t) (dest opcode : Byte) (args : Bytes)
    (salt : Word) :
    buildAndSend dest opcode args salt t =
      t.withEncoder (buildAndSend dest opcode args salt s) (sentOutputs (frame dest opcode args salt)) := by
  obtain ⟨-, hid, hslot⟩ := h
  simp [buildAndSend_eq, State.withEncoder, sentOutputs, ← hid, ← hslot]

/-- An operation of the encoder's side is a function of its operands and the encoder registers, and writes these and the
encoder's ports: from every state with the same three registers it completes, with the same three registers after it
and the same outputs (R66). -/
theorem exec_encoderSide {i : Instr} {s t : State} (hside : IsEncoderSide i) (h : exec i s = .next t) :
    ∃ r out, EncoderOutputs out ∧ t = s.withEncoder r out ∧
      ∀ s', SameEncoder s s' → exec i s' = .next (s'.withEncoder r out) := by
  have hlocal : ∃ out, EncoderOutputs out ∧ ∀ s', SameEncoder s s' → exec i s' = .next (s'.withEncoder t out) := by
    cases execKind i with
    | authenticated opcode args _ hexec =>
      obtain ⟨id, slot, hid, hslot, rfl⟩ := authenticatedRequest_next (hexec s ▸ h)
      refine ⟨_, encoderOutputs_sentOutputs (frame slot opcode args id), fun s' hs => ?_⟩
      have ⟨_, hid', hslot'⟩ := hs
      rw [hexec, authenticatedRequest_written (hid'.trans hid) (hslot'.trans hslot), buildAndSend_eq_withEncoder hs]
    | pairing newId name =>
      obtain ⟨hn, rfl⟩ | ⟨hn, rfl⟩ := exec_pairClient_next h
      · refine ⟨_, encoderOutputs_nameTooLong name.length, fun s' hs => ?_⟩
        rw [exec_pairClient_long hn]
        exact congrArg _ (emit_eq_withEncoder hs _ _)
      · refine ⟨_, encoderOutputs_sentOutputs (frame 0x00 0xEB (pairArgs newId name) Config.magicId), fun s' hs => ?_⟩
        rw [exec_pairClient_fits hn, buildAndSend_eq_withEncoder hs]
    | delivery f hdelivery => rcases hdelivery with rfl | rfl <;> cases hside.1
    | writeId v =>
      cases h
      refine ⟨[], .nil, fun s' ⟨hcrc, _, hslot⟩ => ?_⟩
      simp [State.writeClientId, State.withEncoder, ← hcrc, ← hslot]
    | writeSlot v =>
      cases h
      refine ⟨[], .nil, fun s' ⟨hcrc, hid, _⟩ => ?_⟩
      simp [State.writeClientSlot, State.withEncoder, ← hcrc, ← hid]
    | reset => exact absurd rfl hside.2
  obtain ⟨out, hout, hall⟩ := hlocal
  exact ⟨t, out, hout, Host.Outcome.next.inj (h.symm.trans (hall s (.refl s))), hall⟩

/-- The reassembler's side is the delivery of a fragment and `RX_RESET`. -/
theorem reassemblerSide_cases {j : Instr} (h : ¬ IsEncoderSide j) : (∃ f, IsDelivery j f) ∨ j = .rxReset := by
  cases j with
  | firstFragment f => exact .inl ⟨f, .inl rfl⟩
  | continuationFragment f => exact .inl ⟨f, .inr rfl⟩
  | rxReset => exact .inr rfl
  | _ => exact absurd ⟨rfl, by simp⟩ h

theorem exec_delivery {j : Instr} {f : Bytes} (h : IsDelivery j f) (s : State) : exec j s = fragmentStep f s := by
  rcases h with rfl | rfl <;> rfl

/-- An operation of the reassembler's side is a function of its fragment and the reassembly registers, and writes these
and the reassembler's ports (R66). -/
theorem exec_reassemblerSide {j : Instr} {s t : State} (hside : ¬ IsEncoderSide j) (h : exec j s = .next t) :
    ∃ r out, ReassemblerOutputs out ∧ t = s.withReassembly r out ∧
      ∀ s', SameReassembly s s' → exec j s' = .next (s'.withReassembly r out) := by
  obtain ⟨f, hdelivery⟩ | rfl := reassemblerSide_cases hside
  · rw [exec_delivery hdelivery] at h
    obtain ⟨r, out, rfl, hall⟩ := fragmentStep_local h
    obtain ⟨out', hout, happend⟩ := fragmentStep_outputs h
    obtain rfl : out = out' := List.append_cancel_left happend
    exact ⟨r, out, hout, rfl, fun s' hs => (exec_delivery hdelivery s').trans (hall s' hs)⟩
  · cases h
    refine ⟨s.clearReassembly, [], .nil, ?_, fun s' ⟨hbuf, _, _, _⟩ => ?_⟩
    · simp [State.clearReassembly, State.withReassembly]
    · simp [State.clearReassembly, State.withReassembly, hbuf]

/-! ### The outputs of an operation and of a step -/

/-- Everything an operation that completes can do to the outputs: it appends legal ones (R64). -/
theorem exec_outbox {i : Instr} {s t : State} (h : exec i s = .next t) :
    ∃ out, t.outbox = s.outbox ++ out ∧ ∀ o ∈ out, o.Legal := by
  by_cases hside : IsEncoderSide i
  · obtain ⟨r, out, hout, rfl, -⟩ := exec_encoderSide hside h
    exact ⟨out, rfl, fun o ho => (hout o ho).1⟩
  · obtain ⟨r, out, hout, rfl, -⟩ := exec_reassemblerSide hside h
    exact ⟨out, rfl, fun o ho => (hout o ho).1⟩

/-- Settles O43: no operation touches the inputs (`exec_inbox`), and each appends its outputs (`exec_outbox`). -/
theorem operationsOnlyAppendOutputs : Obligations.OperationsOnlyAppendOutputs := by
  intro i s t h
  obtain ⟨out, happend, -⟩ := exec_outbox h
  exact ⟨exec_inbox h, out, happend.symm⟩

/-- Settles O4: an idle step presents nothing, and any other appends the legal outputs of one operation
(`exec_outbox`). -/
theorem stepKeepsPortsLegal : Obligations.StepKeepsPortsLegal := by
  intro s t _ hlegal hstep
  rcases step_cases hstep with ⟨-, rfl⟩ | ⟨x, rest, i, -, -, -, hexec⟩
  · exact hlegal
  · obtain ⟨out, happend, hout⟩ := exec_outbox hexec
    intro o ho
    rw [happend] at ho
    rcases List.mem_append.1 ho with ho | ho
    · exact hlegal o ho
    · exact hout o ho

/-! ### The two sides commute (R66) -/

@[simp] theorem dispatches_append (a b : List Output) : dispatches (a ++ b) = dispatches a ++ dispatches b :=
  List.filterMap_append

@[simp] theorem diagnostics_append (a b : List Output) : diagnostics (a ++ b) = diagnostics a ++ diagnostics b :=
  List.filterMap_append

@[simp] theorem hostResults_append (a b : List Output) : hostResults (a ++ b) = hostResults a ++ hostResults b :=
  List.filterMap_append

/-- The encoder's outputs do not show on the reassembler's ports. -/
theorem EncoderOutputs.quiet {out : List Output} (h : EncoderOutputs out) :
    dispatches out = [] ∧ diagnostics out = [] := by
  refine ⟨List.filterMap_eq_nil_iff.2 fun o ho => ?_, List.filterMap_eq_nil_iff.2 fun o ho => ?_⟩
  all_goals
    have hport := (h o ho).2
    cases o with
    | tx | ok | invalidArgument => rfl
    | dispatch | diag => simp [Output.port] at hport

/-- The reassembler's outputs do not show on the encoder's ports. -/
theorem ReassemblerOutputs.quiet {out : List Output} (h : ReassemblerOutputs out) :
    txChunks out = [] ∧ hostResults out = [] := by
  refine ⟨List.filterMap_eq_nil_iff.2 fun o ho => ?_, List.filterMap_eq_nil_iff.2 fun o ho => ?_⟩
  all_goals
    have hport := (h o ho).2
    cases o with
    | dispatch | diag => rfl
    | tx | ok | invalidArgument => simp [Output.port] at hport

theorem samePerPort_symm {t u : State} (h : SamePerPort t u) : SamePerPort u t := by
  obtain ⟨hregs, htx, hdispatch, hdiag, hhost⟩ := h
  refine ⟨?_, htx.symm, hdispatch.symm, hdiag.symm, hhost.symm⟩
  rw [hregs]

/-- The two updates write different registers and present on different ports. -/
theorem samePerPort_withReassembly_withEncoder {outE outR : List Output} (hE : EncoderOutputs outE)
    (hR : ReassemblerOutputs outR) (s e r : State) :
    SamePerPort ((s.withEncoder e outE).withReassembly r outR) ((s.withReassembly r outR).withEncoder e outE) := by
  obtain ⟨hdispatch, hdiag⟩ := hE.quiet
  obtain ⟨htx, hhost⟩ := hR.quiet
  refine ⟨rfl, ?_, ?_, ?_, ?_⟩ <;>
    simp [State.withEncoder, State.withReassembly, hdispatch, hdiag, htx, hhost]

/-- Settles O44: either side completes in the same way from every state that agrees on what it reads
(`exec_encoderSide`, `exec_reassemblerSide`), and the other side leaves that as it is. -/
theorem encoderAndReassemblerCommute : Obligations.EncoderAndReassemblerCommute := by
  refine fun i j s t u hi hj => ⟨fun hfirst hsecond => ?_, fun hfirst hsecond => ?_⟩
  · obtain ⟨e, outE, hE, rfl, hencoder⟩ := exec_encoderSide hi hfirst
    obtain ⟨r, outR, hR, rfl, hreassembler⟩ := exec_reassemblerSide hj hsecond
    exact ⟨_, _, hreassembler s ⟨rfl, rfl, rfl, rfl⟩, hencoder _ ⟨rfl, rfl, rfl⟩,
      samePerPort_withReassembly_withEncoder hE hR s e r⟩
  · obtain ⟨r, outR, hR, rfl, hreassembler⟩ := exec_reassemblerSide hj hfirst
    obtain ⟨e, outE, hE, rfl, hencoder⟩ := exec_encoderSide hi hsecond
    exact ⟨_, _, hencoder s ⟨rfl, rfl, rfl⟩, hreassembler _ ⟨rfl, rfl, rfl, rfl⟩,
      samePerPort_symm (samePerPort_withReassembly_withEncoder hE hR s e r)⟩

end Sys2Proof.Machine

/-! ## Frames, their rows in the opcode table, and their chunks (30_encoding.md)

A frame is read and written through the opcode and argument bytes of its row (R92): what a decoder answers is what
`encodeArgs` writes (`decodeArgs_writtenAs`), and a row admits every frame with the opcode and arguments of its mnemonic
(`exists_row_admits`). Membership in a row and injectivity on mnemonics follow from these two. -/

namespace Sys2Proof.Machine

open Sys2Proof.Claims

/-! ### What is refused before it runs (R93) -/

/-- An input that selects no operation is refused for the selection's reason. -/
theorem step_selectionRefused {s : State} {x : Input} {rest : List Input} {r : Refusal} (hin : s.inbox = x :: rest)
    (hselect : selectInput s.rxState x = .error r) : step s = .refused r := by
  simp only [step, hin, hselect]

/-- An operation that is not well-formed is refused in every state (R93, log entry 19). -/
theorem step_illFormed {s : State} {x : Input} {rest : List Input} {i : Instr} {why : IllFormed}
    (hin : s.inbox = x :: rest) (hselect : selectInput s.rxState x = .ok i) (hwhy : i.illFormed = some why) :
    step s = .refused (.illFormed why) := by
  simp only [step, hin, hselect, hwhy]

theorem checkSlot_outside {n : Byte} (h : 15 < n.toNat) : checkSlot n = some (.slotNotAdmitted n) :=
  if_neg (Nat.not_lt.2 h)

theorem checkSlot_eq_none_iff (n : Byte) : checkSlot n = none ↔ n.toNat < 16 := by
  simp [checkSlot]

/-- The four requests with a slot operand are well-formed exactly when `checkSlot` admits the operand. -/
theorem slotRequest_illFormed {n : Byte} {i : Instr}
    (h : i ∈ [.queryClientDetails n, .queryPresetDetails n, .unpairClient n, .startPreset n]) :
    i.illFormed = checkSlot n ∧ i.isHostCommand := by
  simp only [List.mem_cons, List.not_mem_nil, or_false] at h
  rcases h with rfl | rfl | rfl | rfl <;> exact ⟨rfl, rfl⟩

/-- Settles O6: each input's selection (`selectInput_host`, `selectInput_encoded`), then the slot check. -/
theorem stepRefusesWhatTheHostMayNotIssue : Obligations.StepRefusesWhatTheHostMayNotIssue := by
  refine ⟨fun s rest n i hn hi hin => ?_, fun s rest n i bs hn hi hdecode hin => ?_,
    fun s rest bs e hin hdecode => ?_, fun s rest i hin hfragment => ?_⟩
  · obtain ⟨hill, hhost⟩ := slotRequest_illFormed hi
    exact step_illFormed hin (selectInput_host _ hhost) (hill.trans (checkSlot_outside hn))
  · obtain ⟨hill, -⟩ := slotRequest_illFormed (List.mem_cons_of_mem _ (List.mem_cons_of_mem _ hi))
    exact step_illFormed hin (selectInput_encoded _ hdecode) (hill.trans (checkSlot_outside hn))
  · exact step_selectionRefused hin (by simp only [selectInput, hdecode])
  · exact step_selectionRefused hin (by simp [selectInput, Instr.isHostCommand, hfragment])

/-- Settles O25: `step` looks at the well-formedness of the selected command before it looks at the state. -/
theorem refusalComesBeforeTheIdentityFault : Obligations.RefusalComesBeforeTheIdentityFault :=
  fun _ _ _ _ hin hhost hwhy => step_illFormed hin (selectInput_host _ hhost) hwhy

/-! ### The bytes of an encoding (R81, R86, R92) -/

/-- The bytes of an operation with a row are its fields and its check bytes (R81, R86). -/
theorem encode_of_args {i : Instr} {opcode : Byte} {args : Bytes} (h : encodeArgs i = some (opcode, args))
    (dest : Byte) (check : Half) :
    encode dest check i = some (frameFields (encodeDest dest i) opcode args ++ be16 check) := by
  cases i with
  | firstFragment | continuationFragment => cases h
  | _ => simp only [encode, h]; rfl

/-- A request that has an encoding has the opcode and arguments of a row. -/
theorem encode_request {i : Instr} {dest : Byte} {check : Half} {f : Bytes} (hrequest : i.isRequest)
    (h : encode dest check i = some f) :
    ∃ opcode args, encodeArgs i = some (opcode, args) ∧
      f = frameFields (encodeDest dest i) opcode args ++ be16 check := by
  match hargs : encodeArgs i with
  | some (opcode, args) => exact ⟨opcode, args, rfl, Option.some.inj (h.symm.trans (encode_of_args hargs dest check))⟩
  | none =>
    cases i with
    | firstFragment | continuationFragment => cases hrequest
    | _ => simp [encode, hargs] at h

@[simp] theorem be16_length (v : Half) : (be16 v).length = 2 := rfl

@[simp] theorem frameFields_length (dest opcode : Byte) (args : Bytes) :
    (frameFields dest opcode args).length = args.length + 3 := by
  simp [frameFields]

theorem padName_length {name : Bytes} (h : name.length ≤ 20) : (padName name).length = 20 := by
  simp only [padName, List.length_append, List.length_replicate, Config.nameLen]
  omega

/-- The fields of the pairing request, byte by byte (R94, R153). -/
theorem frameFields_pairArgs {name : Bytes} (h : name.length ≤ 20) (dest opcode : Byte) (newId : Word) :
    frameFields dest opcode (pairArgs newId name) = [dest, opcode, 0x18] ++ be32 newId ++ padName name := by
  rw [frameFields, pairArgs_length newId h, pairArgs, List.append_assoc]
  rfl

theorem encodeArgs_pairClient {name : Bytes} (h : name.length ≤ 20) (newId : Word) :
    encodeArgs (.pairClient newId name) = some (0xEB, pairArgs newId name) := by
  simp only [encodeArgs, if_pos h, List.append_assoc]
  rfl

theorem encodeArgs_pairClient_some {newId : Word} {name : Bytes} {opcode : Byte} {args : Bytes}
    (h : encodeArgs (.pairClient newId name) = some (opcode, args)) :
    name.length ≤ 20 ∧ opcode = 0xEB ∧ args = pairArgs newId name := by
  by_cases hname : name.length ≤ 20
  · cases (encodeArgs_pairClient hname newId).symm.trans h
    exact ⟨hname, rfl, rfl⟩
  · simp [encodeArgs, hname] at h

/-- Only the pairing request, of opcode `0xEB`, does not carry the destination slot (R82). -/
theorem encodeDest_of_opcode {i : Instr} {opcode : Byte} {args : Bytes} (h : encodeArgs i = some (opcode, args))
    (hop : opcode ≠ 0xEB) (dest : Byte) : encodeDest dest i = dest := by
  cases i with
  | pairClient => exact absurd (encodeArgs_pairClient_some h).2.1 hop
  | _ => rfl

/-- The argument bytes of the pairing request are 24, those of every other at most 5 (R87). -/
theorem length_encodeArgs {i : Instr} {opcode : Byte} {args : Bytes} (h : encodeArgs i = some (opcode, args)) :
    if i.isPairing then args.length = 24 else args.length ≤ 5 := by
  cases i with
  | pairClient newId name =>
    obtain ⟨hname, -, rfl⟩ := encodeArgs_pairClient_some h
    exact pairArgs_length newId hname
  | firstFragment | continuationFragment | setClientId | setClientSlot | rxReset => cases h
  | _ =>
    cases h
    simp [Instr.isPairing]

/-! ### The bytes of a word -/

theorem extractLsb'_append_high {n : Nat} (hi : BitVec n) (lo : Byte) (k : Nat) :
    (hi ++ lo).extractLsb' (k + 8) 8 = hi.extractLsb' k 8 := by
  rw [BitVec.extractLsb'_append_eq_of_le (Nat.le_add_left 8 k), Nat.add_sub_cancel]

theorem extractLsb'_append_low {n : Nat} (hi : BitVec n) (lo : Byte) : (hi ++ lo).extractLsb' 0 8 = lo := by
  rw [BitVec.extractLsb'_append_eq_of_add_le (Nat.le_refl 8), BitVec.extractLsb'_eq_self]

theorem be16_append (hi lo : Byte) : be16 (hi ++ lo) = [hi, lo] := by
  have hhi : (hi ++ lo).extractLsb' 8 8 = hi := by
    rw [extractLsb'_append_high _ _ 0, BitVec.extractLsb'_eq_self]
  simp only [be16, List.cons.injEq, and_true]
  exact ⟨hhi, extractLsb'_append_low hi lo⟩

theorem be32_append (i3 i2 i1 i0 : Byte) : be32 (i3 ++ i2 ++ i1 ++ i0) = [i3, i2, i1, i0] := by
  have h3 : (i3 ++ i2 ++ i1 ++ i0).extractLsb' 24 8 = i3 := by
    rw [extractLsb'_append_high _ _ 16, extractLsb'_append_high _ _ 8, extractLsb'_append_high _ _ 0,
      BitVec.extractLsb'_eq_self]
  have h2 : (i3 ++ i2 ++ i1 ++ i0).extractLsb' 16 8 = i2 := by
    rw [extractLsb'_append_high _ _ 8, extractLsb'_append_high _ _ 0, extractLsb'_append_low]
  have h1 : (i3 ++ i2 ++ i1 ++ i0).extractLsb' 8 8 = i1 := by
    rw [extractLsb'_append_high _ _ 0, extractLsb'_append_low]
  simp only [be32, List.cons.injEq, and_true]
  exact ⟨h3, h2, h1, extractLsb'_append_low _ i0⟩

/-- Masking a word is masking its four bytes. -/
theorem and_eq_iff_bytes (a b c : Word) : a &&& b = c ↔ List.zipWith (· &&& ·) (be32 a) (be32 b) = be32 c := by
  constructor
  · rintro rfl
    simp [be32, BitVec.extractLsb'_and]
  · intro h
    simp only [be32, List.zipWith, List.cons.injEq, and_true, ← BitVec.extractLsb'_and] at h
    obtain ⟨h3, h2, h1, h0⟩ := h
    rw [← word_eq_bytes (a &&& b), ← word_eq_bytes c, h3, h2, h1, h0]

/-! ### Reading a frame gives the operation that writes it (R92) -/

/-- The argument byte of a details query stays in its row: the slot operand, which is added to the row's base, is below
16 (R92, R93). The arguments of every other operation stay in its row by themselves. -/
def DetailsSlotAdmitted : Instr → Prop
  | .queryClientDetails n | .queryPresetDetails n => n.toNat < 16
  | _ => True

theorem detailsSlotAdmitted_of_wellFormed {i : Instr} (h : i.WellFormed) : DetailsSlotAdmitted i := by
  cases i with
  | queryClientDetails n | queryPresetDetails n => exact (checkSlot_eq_none_iff n).1 h
  | _ => trivial

/-- The operation is written with this opcode and these argument bytes, and stays in its row. -/
def WrittenAs (opcode : Byte) (args : Bytes) (i : Instr) : Prop :=
  encodeArgs i = some (opcode, args) ∧ DetailsSlotAdmitted i

theorem decodeBare_writtenAs {opcode : Byte} {i j : Instr} {args : Bytes} (h : decodeBare i args = some j)
    (hrow : WrittenAs opcode [] i) : WrittenAs opcode args j := by
  cases args with
  | nil => exact Option.some.inj h ▸ hrow
  | cons => cases h

theorem decodeOutlet_some {b : Byte} {on : Bool} (h : decodeOutlet b = some on) : b = outletByte on := by
  unfold decodeOutlet at h
  split at h
  · next hb => cases h; exact hb
  · split at h
    · next hb => cases h; exact hb
    · cases h

/-- A byte that a details row reads is the row's base plus a slot below 16 (R93). -/
theorem slotByte_some {a base : Byte} {query : Byte → Instr} {i : Instr}
    (h : (if base.toNat ≤ a.toNat ∧ a.toNat ≤ base.toNat + 15 then some (query (a - base)) else none) = some i) :
    ∃ n : Byte, n.toNat < 16 ∧ a = base + n ∧ i = query n := by
  obtain ⟨⟨hlow, hhigh⟩, hi⟩ := Option.ite_none_right_eq_some.1 h
  refine ⟨a - base, ?_, ?_, (Option.some.inj hi).symm⟩
  · rw [BitVec.toNat_sub_of_le hlow]
    omega
  · rw [BitVec.add_comm, BitVec.sub_add_cancel]

theorem decodeClientQuery_writtenAs {args : Bytes} {i : Instr} (h : decodeClientQuery args = some i) :
    WrittenAs 0x6B args i := by
  unfold decodeClientQuery at h
  split at h
  · split at h
    · next ha => cases h; subst ha; exact ⟨rfl, trivial⟩
    · obtain ⟨n, hn, rfl, rfl⟩ := slotByte_some (base := 0x10) (query := .queryClientDetails) h
      exact ⟨rfl, hn⟩
  · cases h

theorem decodePresetQuery_writtenAs {args : Bytes} {i : Instr} (h : decodePresetQuery args = some i) :
    WrittenAs 0x30 args i := by
  unfold decodePresetQuery at h
  split at h
  · split at h
    · next ha => cases h; subst ha; exact ⟨rfl, trivial⟩
    · obtain ⟨n, hn, rfl, rfl⟩ := slotByte_some (base := 0x40) (query := .queryPresetDetails) h
      exact ⟨rfl, hn⟩
  · cases h

theorem decodeControl_writtenAs {args : Bytes} {i : Instr} (h : decodeControl args = some i) :
    WrittenAs 0x87 args i := by
  unfold decodeControl at h
  split at h
  · split at h
    · next h1 h2 =>
      obtain ⟨⟨hconst, htimer⟩, hi⟩ := Option.ite_none_right_eq_some.1 h
      cases hi
      rw [hconst, htimer, decodeOutlet_some h1, decodeOutlet_some h2]
      exact ⟨rfl, trivial⟩
    · cases h
  · cases h

/-- A name field is its stripped name padded to the field's length. -/
theorem padName_stripPad {name : Bytes} (h : name.length = Config.nameLen) : padName (stripPad name) = name := by
  rw [padName, ← h]
  exact stripPad_append_missing name

theorem decodePairing_writtenAs {dest : Byte} {args : Bytes} {i : Instr} (h : decodePairing dest args = .ok i) :
    WrittenAs 0xEB args i ∧ encodeDest dest i = dest := by
  unfold decodePairing at h
  split at h
  · cases h; exact ⟨⟨rfl, trivial⟩, rfl⟩
  · next i3 i2 i1 i0 name =>
    split at h
    · cases h
    · next hlen =>
      split at h
      · cases h
      · next hdest =>
        cases h
        have hname : name.length = Config.nameLen := Decidable.not_not.1 hlen
        refine ⟨⟨?_, trivial⟩, (Decidable.not_not.1 hdest).symm⟩
        rw [encodeArgs_pairClient ((stripPad_length_le name).trans hname.le), pairArgs, be32_append,
          padName_stripPad hname]
        rfl
  · cases h

/-- An answer under an opcode's name is what the opcode's own decoder read. -/
theorem named_ok {r : Option Instr} {e : DecodeError} {i : Instr}
    (h : (match r with | some i => .ok i | none => .error e : Except DecodeError Instr) = .ok i) : r = some i := by
  cases r <;> cases h
  rfl

/-- What the decoder reads from argument bytes is the operation they are the encoding of (R82, R92). -/
theorem decodeArgs_writtenAs {dest opcode : Byte} {args : Bytes} {i : Instr} (h : decodeArgs dest opcode args = .ok i) :
    WrittenAs opcode args i ∧ encodeDest dest i = dest := by
  rcases eq_or_ne opcode 0xEB with rfl | hop
  · exact decodePairing_writtenAs h
  suffices hw : WrittenAs opcode args i from ⟨hw, encodeDest_of_opcode hw.1 hop dest⟩
  simp only [decodeArgs, if_neg hop] at h
  split_ifs at h with h6B h3E h07 h44 h10 h30 h32 hargs h87 hB1
  · exact h6B ▸ decodeClientQuery_writtenAs (named_ok h)
  · exact h3E ▸ decodeBare_writtenAs (named_ok h) ⟨rfl, trivial⟩
  · exact h07 ▸ decodeBare_writtenAs (named_ok h) ⟨rfl, trivial⟩
  · exact h44 ▸ decodeBare_writtenAs (named_ok h) ⟨rfl, trivial⟩
  · exact h10 ▸ decodeBare_writtenAs (named_ok h) ⟨rfl, trivial⟩
  · exact h30 ▸ decodePresetQuery_writtenAs (named_ok h)
  · cases h
    exact ⟨by rw [h32, hargs]; rfl, trivial⟩
  · exact h87 ▸ decodeControl_writtenAs (named_ok h)
  · split at h
    · cases h
      exact ⟨by rw [hB1]; rfl, trivial⟩
    · cases h

/-- Bytes that decode are fields and check bytes, the length byte being the number of argument bytes (R81, R102). -/
theorem decodeFrame_ok {f : Bytes} {i : Instr} (h : decodeFrame f = .ok i) :
    ∃ dest opcode args check, f = frameFields dest opcode args ++ be16 check ∧ decodeArgs dest opcode args = .ok i := by
  unfold decodeFrame at h
  split at h
  · next dest opcode alen rest =>
    split at h
    · next hlen =>
      obtain ⟨hi, lo, htail⟩ : ∃ hi lo, rest.drop alen.toNat = [hi, lo] :=
        List.length_eq_two.1 (by rw [List.length_drop]; omega)
      have hargs : (rest.take alen.toNat).length = alen.toNat := by
        rw [List.length_take]; omega
      refine ⟨dest, opcode, rest.take alen.toNat, hi ++ lo, ?_, h⟩
      rw [be16_append, ← htail, frameFields, hargs, BitVec.ofNat_toNat, BitVec.setWidth_eq]
      simp
    · cases h
  · cases h

/-! ### The rows of the opcode table (R101) -/

/-- A row admits the bytes whose first four, masked byte by byte, are its pattern's, at the row's length. -/
theorem admits_iff_bytes (r : FrameRow) (b0 b1 b2 b3 : Byte) (rest : Bytes) :
    r.admits (b0 :: b1 :: b2 :: b3 :: rest) ↔
      List.zipWith (· &&& ·) [b0, b1, b2, b3] (be32 r.mask) = be32 r.pattern ∧ rest.length + 4 = r.length := by
  simp only [FrameRow.admits, decide_eq_true_eq, List.length_cons]
  rw [and_eq_iff_bytes, be32_append]

/-- A slot operand below 16 stays in the low half of the argument byte of its details row (R93). -/
theorem detailsArg_high : ∀ n : Byte, n.toNat < 16 → 0x10 + n &&& 0xF0 = 0x10 ∧ 0x40 + n &&& 0xF0 = 0x40 := by decide

/-- The frame of an operation belongs to the row of its mnemonic, whatever its destination and check value. -/
theorem exists_row_admits {i : Instr} {opcode : Byte} {args : Bytes} (h : WrittenAs opcode args i) (dest : Byte)
    (check : Half) :
    ∃ r ∈ frameRows, r.mnemonic = i.mnemonic ∧
      r.admits (frameFields (encodeDest dest i) opcode args ++ be16 check) := by
  obtain ⟨hargs, hslot⟩ := h
  cases i with
  | queryClientDetails n =>
    cases hargs
    simpa [frameRows, Instr.mnemonic, frameFields, be16, be32, admits_iff_bytes] using (detailsArg_high n hslot).1
  | queryPresetDetails n =>
    cases hargs
    simpa [frameRows, Instr.mnemonic, frameFields, be16, be32, admits_iff_bytes] using (detailsArg_high n hslot).2
  | pairClient newId name =>
    obtain ⟨hname, rfl, rfl⟩ := encodeArgs_pairClient_some hargs
    rw [frameFields_pairArgs hname]
    simp [frameRows, Instr.mnemonic, encodeDest, Instr.isPairing, be16, be32, admits_iff_bytes, padName_length hname]
  | controlOutlets temp o1 o2 =>
    cases hargs
    cases o1 <;> cases o2 <;> simp [frameRows, Instr.mnemonic, frameFields, be16, be32, admits_iff_bytes]
  | firstFragment | continuationFragment | setClientId | setClientSlot | rxReset => cases hargs
  | _ =>
    cases hargs
    simp [frameRows, Instr.mnemonic, frameFields, be16, be32, admits_iff_bytes]

/-- Two rows of one length differ in a bit that both look at. -/
theorem frameRows_disjoint : ∀ r ∈ frameRows, ∀ q ∈ frameRows, r.length = q.length →
    r.pattern &&& q.mask = q.pattern &&& r.mask → r = q := by
  decide

theorem admits_both {r q : FrameRow} {f : Bytes} (hr : r.admits f) (hq : q.admits f) :
    r.length = q.length ∧ r.pattern &&& q.mask = q.pattern &&& r.mask := by
  match f with
  | b0 :: b1 :: b2 :: b3 :: rest =>
    simp only [FrameRow.admits, decide_eq_true_eq] at hr hq
    obtain ⟨hpr, hlr⟩ := hr
    obtain ⟨hpq, hlq⟩ := hq
    refine ⟨hlr.symm.trans hlq, ?_⟩
    rw [← hpr, ← hpq]
    ac_rfl
  | [] | [_] | [_, _] | [_, _, _] => cases hr

theorem row_unique {f : Bytes} {r q : FrameRow} (hr : r ∈ frameRows) (hq : q ∈ frameRows) (har : r.admits f)
    (haq : q.admits f) : r = q :=
  frameRows_disjoint r hr q hq (admits_both har haq).1 (admits_both har haq).2

/-- Settles O10: what decodes is the frame of what it decodes to (`decodeArgs_writtenAs`), which is in the row of its
mnemonic (`exists_row_admits`). -/
theorem decodedBytesBelongToTheirOneRow : Obligations.DecodedBytesBelongToTheirOneRow := by
  refine ⟨fun f i h => ?_, fun f r hr q hq => row_unique hr hq⟩
  obtain ⟨dest, opcode, args, check, rfl, hargs⟩ := decodeFrame_ok h
  obtain ⟨hwritten, hdest⟩ := decodeArgs_writtenAs hargs
  have hrow := exists_row_admits hwritten dest check
  rwa [hdest] at hrow

/-- Settles O11: both requests' rows admit the common fields with the first request's check bytes, so they are one row;
the two collisions are the wrap of the argument byte. -/
theorem fieldsDetermineTheMnemonicInTheAdmittedRange : Obligations.FieldsDetermineTheMnemonicInTheAdmittedRange := by
  refine ⟨fun i j dest dest' c c' fields x y x' y' hi hj hwi hwj hfi hfj => ?_, fun s => ⟨rfl, rfl⟩⟩
  obtain ⟨opcode, args, hargs, hf⟩ := encode_request hi hfi
  obtain ⟨opcode', args', hargs', hf'⟩ := encode_request hj hfj
  have hfields := (List.append_inj_left' hf rfl).symm.trans (List.append_inj_left' hf' rfl)
  obtain ⟨r, hr, hri, har⟩ := exists_row_admits ⟨hargs, detailsSlotAdmitted_of_wellFormed hwi⟩ dest c
  obtain ⟨q, hq, hqj, haq⟩ := exists_row_admits ⟨hargs', detailsSlotAdmitted_of_wellFormed hwj⟩ dest' c
  rw [← hri, ← hqj, row_unique hr hq (hfields ▸ har) haq]

/-! ### The chunks of a frame (R88) -/

theorem length_chunks (size : Nat) (f : Bytes) : (chunks size f).length = (f.length + size - 1) / size := by
  simp [chunks]

theorem getElem_chunks {size : Nat} {f : Bytes} {i : Nat} (h : i < (chunks size f).length) :
    (chunks size f)[i] = chunk size f i := by
  simp [chunks]

theorem chunk_eq_slice (size : Nat) (f : Bytes) (i : Nat) :
    chunk size f i = (f.take (min (size * (i + 1)) f.length)).drop (size * i) := by
  rw [chunk, List.drop_take, List.take_eq_take_iff, List.length_drop, Nat.mul_succ]
  omega

/-- A chunk that ends inside the frame has the chunk size. -/
theorem length_chunk {size : Nat} {f : Bytes} {i : Nat} (h : size * (i + 1) ≤ f.length) :
    (chunk size f i).length = size := by
  rw [Nat.mul_succ] at h
  rw [chunk, List.length_take, List.length_drop]
  omega

/-- Every chunk that another one follows has the chunk size. -/
theorem length_of_mem_dropLast_chunks {size : Nat} (hsize : 1 ≤ size) {f c : Bytes} (h : c ∈ (chunks size f).dropLast) :
    c.length = size := by
  obtain ⟨k, hk, rfl⟩ := List.getElem_of_mem h
  rw [List.length_dropLast, length_chunks] at hk
  rw [List.getElem_dropLast, getElem_chunks]
  exact length_chunk ((chunk_count hsize _ _).1 (by omega)).le

/-- Settles O15: the chunk laws for every size, then at size 20 the count from the length of a request's frame. -/
theorem chunksReproduceTheFrame : Obligations.ChunksReproduceTheFrame := by
  refine ⟨fun size f h1 _ => ⟨chunks_flatten h1 f, fun c => length_of_mem_dropLast_chunks h1,
    fun c => length_of_mem_chunks h1, length_chunks size f, fun i hi => ?_⟩,
    fun f h1 h20 => chunks_short (List.ne_nil_of_length_pos h1) h20, fun f hf => ?_, fun i dest check f hi hf => ?_⟩
  · have hcount : i < (chunks size f).length := length_chunks size f ▸ (chunk_count h1 _ _).2 hi
    rw [List.getElem?_eq_getElem hcount, getElem_chunks, chunk_eq_slice]
  · rw [chunks_pairing hf]
    simp [hf]
  · obtain ⟨opcode, args, hargs, rfl⟩ := encode_request hi hf
    have hlen := length_encodeArgs hargs
    rw [length_chunks, List.length_append, frameFields_length, be16_length]
    split at hlen
    · next hpairing => rw [if_pos hpairing]; omega
    · next hpairing => rw [if_neg hpairing]; omega

/-! ### What a request sends (R153 to R155) -/

/-- An authenticated request whose frame has at most 20 bytes presents it as one chunk (R141, R142). -/
theorem sendsOneChunk_of_authenticated {i : Instr} {opcode : Byte} {args : Bytes} {s : State} {id : Word} {slot : Byte}
    (hexec : exec i s = authenticatedRequest opcode args s) (hid : s.clientId = some id)
    (hslot : s.clientSlot = some slot) (hlen : args.length ≤ 15) :
    SendsOneChunk i s (frameFields slot opcode args) id := by
  have hframe : frame slot opcode args id ≠ [] := List.append_ne_nil_of_left_ne_nil (List.cons_ne_nil _ _) _
  rw [SendsOneChunk, hexec, authenticatedRequest_written hid hslot, buildAndSend_eq,
    chunks_short hframe (by rw [frame_length]; omega)]
  rfl

/-- What is sent from every state with an identity is sent from a fresh Session. -/
theorem presents_of_sendsOneChunk {i : Instr} {id : Word} {slot : Byte} {fields check : Bytes}
    (h : SendsOneChunk i (State.launch (some id) (some slot)) fields id) (hcheck : be16 (checksum fields id) = check) :
    Presents slot id i [fields ++ check] :=
  ⟨_, h, hcheck ▸ rfl⟩

/-- `CONTROL_OUTLETS` sends its row of the catalog (R95, R155). -/
theorem sendsOneChunk_controlOutlets {s : State} {id : Word} {slot : Byte} (hid : s.clientId = some id)
    (hslot : s.clientSlot = some slot) (temp : Byte) (o1 o2 : Bool) :
    SendsOneChunk (.controlOutlets temp o1 o2) s (frameFields slot 0x87 (controlArgs temp o1 o2)) id :=
  sendsOneChunk_of_authenticated rfl hid hslot (by simp [controlArgs])

/-- Settles O19: the catalog's row written out; the four examples are the same frame with the check bytes computed. -/
theorem controlOutletsSendsTenByteFrame : Obligations.ControlOutletsSendsTenByteFrame := by
  refine ⟨fun s id slot temp o1 o2 hid hslot => ?_, ?_, ?_, ?_, ?_⟩
  · simpa [frameFields, controlArgs, timerMode, outletByte] using sendsOneChunk_controlOutlets hid hslot temp o1 o2
  all_goals exact presents_of_sendsOneChunk (sendsOneChunk_controlOutlets rfl rfl _ _ _) (by decide +kernel)

/-- `PAIR_CLIENT` with a name that fits presents its frame in two chunks (R88, R153). -/
theorem exec_pairClient_sends {name : Bytes} (h : name.length ≤ 20) (newId : Word) (s : State) :
    exec (.pairClient newId name) s = .next
      { s with
        crcReg := checksum (frameFields 0x00 0xEB (pairArgs newId name)) Config.magicId
        outbox := s.outbox ++ [.tx ((frame 0x00 0xEB (pairArgs newId name) Config.magicId).take 20),
          .tx ((frame 0x00 0xEB (pairArgs newId name) Config.magicId).drop 20), .ok] } := by
  have hlength : (frame 0x00 0xEB (pairArgs newId name) Config.magicId).length = 29 := by
    rw [frame_length, pairArgs_length newId h]
  rw [exec_pairClient_fits h, buildAndSend_eq, chunks_pairing hlength]
  rfl

/-- Settles O20: the bytes of the statement are the frame that `exec_pairClient_sends` presents. -/
theorem pairClientSendsTwoChunks : Obligations.PairClientSendsTwoChunks := by
  refine ⟨fun s newId name fields f hname hfields hf => ?_, _, exec_pairClient_sends (by decide) _ _, by decide +kernel⟩
  have hrow : fields = frameFields 0x00 0xEB (pairArgs newId name) := by
    rw [frameFields_pairArgs hname, hfields]
    rfl
  have hframe : f = frame 0x00 0xEB (pairArgs newId name) Config.magicId := by
    rw [hf, hrow]
    rfl
  rw [hframe, hrow, frame_length, pairArgs_length newId hname]
  exact ⟨rfl, exec_pairClient_sends hname newId s⟩

end Sys2Proof.Machine

/-! ## The checksum generator (40_checksum.md)

SUPPORT. One bit step read bit by bit, the same step in a register wider than 16 bits, and the load and input order of a
whole computation. -/

namespace Sys2Proof.Machine

open Sys2Proof.Claims

/-! ### One bit step (R123) -/

/-- The feedback bit of a step: the old top bit against the input bit. -/
def crcFeedback (reg : Half) (d : Bool) : Bool := reg.getLsbD 15 ^^ d

theorem crcBit_eq (reg : Half) (d : Bool) :
    crcBit reg d = if crcFeedback reg d then reg <<< 1 ^^^ Config.crcPoly else reg <<< 1 := rfl

/-- The polynomial's set bits are 0, 5 and 12 (R5). -/
theorem getLsbD_crcPoly : ∀ i < 16, Config.crcPoly.getLsbD i = decide (i = 0 ∨ i = 5 ∨ i = 12) := by
  decide

/-- A bit of the next register: the shifted bit, and the feedback where the polynomial has a bit. -/
theorem getLsbD_crcBit (reg : Half) (d : Bool) {i : Nat} (hi : i < 16) :
    (crcBit reg d).getLsbD i =
      ((reg <<< 1).getLsbD i ^^ (crcFeedback reg d && decide (i = 0 ∨ i = 5 ∨ i = 12))) := by
  rw [crcBit_eq]
  cases crcFeedback reg d with
  | false => simp
  | true => simp only [if_true, BitVec.getLsbD_xor, getLsbD_crcPoly i hi, Bool.true_and]

theorem getLsbD_crcBit_zero (reg : Half) (d : Bool) : (crcBit reg d).getLsbD 0 = crcFeedback reg d := by
  rw [getLsbD_crcBit reg d (Nat.zero_lt_succ 15), BitVec.getLsbD_shiftLeft]
  simp

theorem getLsbD_crcBit_succ (reg : Half) (d : Bool) {k : Nat} (hk : k < 15) :
    (crcBit reg d).getLsbD (k + 1) = (reg.getLsbD k ^^ (crcFeedback reg d && decide (k + 1 = 5 ∨ k + 1 = 12))) := by
  have hshift : (reg <<< 1).getLsbD (k + 1) = reg.getLsbD k := by
    simp [Nat.lt_succ_of_lt hk, Nat.succ_lt_succ hk]
  rw [getLsbD_crcBit reg d (Nat.succ_lt_succ hk), hshift]
  simp

/-- Settles O13: the conditional XOR is the model's step, the bits are those of `getLsbD_crcBit`. -/
theorem crcBitStepBitByBit : Obligations.CrcBitStepBitByBit := by
  refine fun reg d => ⟨?_, getLsbD_crcBit_zero reg d, fun k hk => ?_⟩
  · simp only [crcBit_eq, crcFeedback, bne_iff_ne, ← Bool.bne_eq_xor]
  · rw [getLsbD_crcBit_succ reg d hk]
    split
    case isTrue h => rw [decide_eq_true h, Bool.and_true, crcFeedback]
    case isFalse h => rw [decide_eq_false h, Bool.and_false, Bool.xor_false]

/-! ### A wider register (R126) -/

/-- One step of the wider register is, on its low 16 bits, one step of the 16-bit register. -/
theorem ofNat_wideBit (reg : Nat) (d : Bool) : BitVec.ofNat 16 (wideBit reg d) = crcBit (BitVec.ofNat 16 reg) d := by
  have htop : crcFeedback (BitVec.ofNat 16 reg) d = (reg.testBit 15 ^^ d) := by
    rw [crcFeedback, BitVec.getLsbD_ofNat, decide_eq_true (by decide), Bool.true_and]
  have hshift : BitVec.ofNat 16 (2 * reg) = BitVec.ofNat 16 reg <<< 1 := by
    apply BitVec.eq_of_toNat_eq
    simp [Nat.shiftLeft_eq, Nat.mul_comm]
  rw [crcBit_eq, htop, ← hshift, wideBit, apply_ite (BitVec.ofNat 16), BitVec.ofNat_xor]
  rfl

/-- From a masked register the masked byte step is the 16-bit byte step. -/
theorem wideByte_toNat (reg : Half) (b : Byte) : wideByte reg.toNat b = (crcByte reg b).toNat := by
  have hfold := List.foldl_hom (BitVec.ofNat 16) (g₁ := wideBit) (g₂ := crcBit) (l := bitsMsbFirst b) (init := reg.toNat)
    (fun r d => (ofNat_wideBit r d).symm)
  rw [BitVec.ofNat_toNat, BitVec.setWidth_eq] at hfold
  rw [crcByte, hfold, BitVec.toNat_ofNat, wideByte]

/-- Settles O14: the byte steps agree (`wideByte_toNat`), so the two folds over the string do, from the same load. -/
theorem maskingPerByteGivesTheSameChecksum : Obligations.MaskingPerByteGivesTheSameChecksum :=
  fun _ => List.foldl_hom BitVec.toNat (init := crcLoad) wideByte_toNat

/-! ### The whole computation (R120 to R122) -/

/-- A computation loads `0xFFFF` and consumes the payload, then the salt's bytes (R121, R122). -/
theorem checksum_eq_foldl (payload : Bytes) (salt : Word) :
    checksum payload salt = (payload ++ be32 salt).foldl crcByte 0xFFFF := rfl

/-- Settles O12: the fold is the model's definition with the salt's bytes written out; the two values are computed. -/
theorem checksumCoversPayloadThenSalt : Obligations.ChecksumCoversPayloadThenSalt :=
  ⟨checksum_eq_foldl, by decide +kernel, by decide +kernel⟩

end Sys2Proof.Machine

/-! ## The frame encoder (41_frame_encoder.md)

A request is one of two meanings (`exec_request_cases`): an authenticated request, or the pairing request. Whichever
completes sends the frame of its row (`exec_request_sends`), and that frame reads back as the request
(`decodeFrame_frame`). -/

namespace Sys2Proof.Machine

open Sys2Proof.Claims

/-! ### What is written with a row's opcode and arguments reads back (R81, R92) -/

/-- The fields and check bytes of a frame read as its opcode and arguments, whose number the length byte holds (R102). -/
theorem decodeFrame_frameFields {args : Bytes} (h : args.length < 256) (dest opcode : Byte) (check : Half) :
    decodeFrame (frameFields dest opcode args ++ be16 check) = decodeArgs dest opcode args := by
  have hlen : (BitVec.ofNat 8 args.length).toNat = args.length := by
    rw [BitVec.toNat_ofNat, Nat.mod_eq_of_lt h]
  simp [frameFields, decodeFrame, hlen]

/-- A slot operand below 16 keeps the argument byte in the details row, off the byte of `QUERY_CLIENT_SLOTS` (R93). -/
theorem decodeClientQuery_details {n : Byte} (hn : n.toNat < 16) :
    decodeClientQuery [0x10 + n] = some (.queryClientDetails n) := by
  have hother : 0x10 + n ≠ 0x00 := by bv_omega
  have hrange : 0x10 ≤ (0x10 + n).toNat ∧ (0x10 + n).toNat ≤ 0x1F := by bv_omega
  rw [decodeClientQuery, if_neg hother, if_pos hrange, BitVec.add_comm, BitVec.add_sub_cancel]

/-- A slot operand below 16 keeps the argument byte in the details row, off the byte of `QUERY_PRESET_SLOTS` (R93). -/
theorem decodePresetQuery_details {n : Byte} (hn : n.toNat < 16) :
    decodePresetQuery [0x40 + n] = some (.queryPresetDetails n) := by
  have hother : 0x40 + n ≠ 0x80 := by bv_omega
  have hrange : 0x40 ≤ (0x40 + n).toNat ∧ (0x40 + n).toNat ≤ 0x4F := by bv_omega
  rw [decodePresetQuery, if_neg hother, if_pos hrange, BitVec.add_comm, BitVec.add_sub_cancel]

theorem decodeArgs_clientQuery {args : Bytes} {i : Instr} (h : decodeClientQuery args = some i) (dest : Byte) :
    decodeArgs dest 0x6B args = .ok i := by
  simp [decodeArgs, h]

theorem decodeArgs_presetQuery {args : Bytes} {i : Instr} (h : decodePresetQuery args = some i) (dest : Byte) :
    decodeArgs dest 0x30 args = .ok i := by
  simp [decodeArgs, h]

theorem stripPad_padName (name : Bytes) : stripPad (padName name) = stripPad name :=
  stripPad_append_pad name _

/-- The pairing arguments read as the client id and the name without its padding (R94). -/
theorem decodePairing_pairArgs {name : Bytes} (h : name.length ≤ 20) (newId : Word) :
    decodePairing 0x00 (pairArgs newId name) = .ok (.pairClient newId (stripPad name)) := by
  have hlen : (padName name).length = Config.nameLen := padName_length h
  simp only [pairArgs, be32, List.cons_append, List.nil_append, decodePairing, hlen, ne_eq, not_true_eq_false, if_false,
    word_eq_bytes, stripPad_padName]

/-- The opcode and arguments of an admitted operation with an unpadded name read back as that operation (R92). -/
theorem decodeArgs_encodeArgs {i : Instr} {opcode : Byte} {args : Bytes} (hargs : encodeArgs i = some (opcode, args))
    (hslot : DetailsSlotAdmitted i) (hname : i.nameUnpadded) (dest : Byte) :
    decodeArgs (encodeDest dest i) opcode args = .ok i := by
  cases i with
  | queryClientDetails n =>
    cases hargs
    exact decodeArgs_clientQuery (decodeClientQuery_details hslot) dest
  | queryPresetDetails n =>
    cases hargs
    exact decodeArgs_presetQuery (decodePresetQuery_details hslot) dest
  | pairClient newId name =>
    obtain ⟨hlen, rfl, rfl⟩ := encodeArgs_pairClient_some hargs
    have hstrip : stripPad name = name := of_decide_eq_true hname
    exact (decodePairing_pairArgs hlen newId).trans (by rw [hstrip])
  | controlOutlets temp o1 o2 =>
    cases hargs
    cases o1 <;> cases o2 <;> rfl
  | firstFragment | continuationFragment | setClientId | setClientSlot | rxReset => cases hargs
  | _ =>
    cases hargs
    rfl

/-- The frame of an admitted operation with an unpadded name decodes to it, whatever the destination slot and the
salt. -/
theorem decodeFrame_frame {i : Instr} {opcode : Byte} {args : Bytes} (hargs : encodeArgs i = some (opcode, args))
    (hslot : DetailsSlotAdmitted i) (hname : i.nameUnpadded) (dest : Byte) (salt : Word) :
    decodeFrame (frame (encodeDest dest i) opcode args salt) = .ok i := by
  have hshort : args.length < 256 := by
    have hlen := length_encodeArgs hargs
    split at hlen <;> omega
  exact (decodeFrame_frameFields hshort _ opcode _).trans (decodeArgs_encodeArgs hargs hslot hname dest)

/-! ### What a request that completes does (R141, R161, R162) -/

/-- The two meanings of a request: authenticated, with the opcode and arguments of its row, or pairing (R153, R161). -/
theorem exec_request_cases {i : Instr} (hrequest : i.isRequest) :
    (i.isPairing = false ∧
      ∃ opcode args, encodeArgs i = some (opcode, args) ∧ ∀ s, exec i s = authenticatedRequest opcode args s) ∨
    ∃ newId name, i = .pairClient newId name := by
  cases hpairing : i.isPairing with
  | false => exact .inl ⟨rfl, exec_authenticated hrequest hpairing⟩
  | true =>
    cases i with
    | pairClient newId name => exact .inr ⟨newId, name, rfl⟩
    | _ => cases hpairing

/-- A request with a fitting name and the identity it reads sends the frame of its row (R141, R161). -/
theorem exec_request_sends {i : Instr} {s : State} {id : Word} {slot : Byte} (hrequest : i.isRequest)
    (hfits : NameFits i) (hidentity : i.isPairing ∨ (s.clientId = some id ∧ s.clientSlot = some slot)) :
    ∃ opcode args, encodeArgs i = some (opcode, args) ∧
      exec i s = .next (buildAndSend (encodeDest slot i) opcode args (saltOf i id) s) := by
  obtain ⟨hpairing, opcode, args, hargs, hexec⟩ | ⟨newId, name, rfl⟩ := exec_request_cases hrequest
  · obtain ⟨hid, hslot⟩ := hidentity.resolve_left (by simp [hpairing])
    refine ⟨opcode, args, hargs, ?_⟩
    simp only [hexec, authenticatedRequest_written hid hslot, encodeDest, saltOf, hpairing, Bool.false_eq_true, if_false]
  · have hname : name.length ≤ 20 := hfits newId name rfl
    exact ⟨_, _, encodeArgs_pairClient hname newId, exec_pairClient_fits hname newId s⟩

/-- Settles O27: the request sends the frame of its row (`exec_request_sends`), whose chunks are together the frame
(`chunks_flatten`) and which reads back as the request (`decodeFrame_frame`). -/
theorem presentedChunksAreTheEncodedRequest : Obligations.PresentedChunksAreTheEncodedRequest := by
  intro i s id slot hrequest hfits hidentity
  obtain ⟨opcode, args, hargs, hexec⟩ := exec_request_sends hrequest hfits hidentity
  have hfields : (frame (encodeDest slot i) opcode args (saltOf i id)).length - 2 =
      (frameFields (encodeDest slot i) opcode args).length := by
    simp only [frame_length, frameFields_length, Nat.reduceSubDiff]
  refine ⟨_, _, frame (encodeDest slot i) opcode args (saltOf i id),
    checksum (frameFields (encodeDest slot i) opcode args) (saltOf i id), hexec, buildAndSend_outbox_sent ..,
    hostResults_sentOutputs _, encode_of_args hargs slot _, ?_, ?_, ?_, fun hwell hname => ?_⟩
  · rw [txChunks_sentOutputs, chunks_flatten (by decide)]
  · rw [hfields, frame, List.take_left]
  · rw [hfields, frame, List.drop_left, be16]
  · exact decodeFrame_frame hargs (detailsSlotAdmitted_of_wellFormed hwell) hname slot _

/-- `BUILD_AND_SEND` writes `CRC_REG` and presents the frame, and changes nothing else (R141). -/
theorem buildAndSend_frame (dest opcode : Byte) (args : Bytes) (salt : Word) (s : State) :
    buildAndSend dest opcode args salt s =
      { s with
        crcReg := (buildAndSend dest opcode args salt s).crcReg
        outbox := s.outbox ++ sentOutputs (frame dest opcode args salt) } := by
  rw [buildAndSend_crcReg, buildAndSend_eq, sentOutputs]

/-- A request that completes writes `CRC_REG` and the encoder's ports alone, and presents the same outputs from every
state with the identity it read (R162). -/
theorem exec_request_pure {i : Instr} {s t : State} (hrequest : i.isRequest) (h : exec i s = .next t) :
    ∃ out, EncoderOutputs out ∧ t = { s with crcReg := t.crcReg, outbox := s.outbox ++ out } ∧
      ∀ s' : State, (i.isPairing ∨ (s'.clientId = s.clientId ∧ s'.clientSlot = s.clientSlot)) →
        ∃ t', exec i s' = .next t' ∧ t'.outbox = s'.outbox ++ out := by
  obtain ⟨hpairing, opcode, args, -, hexec⟩ | ⟨newId, name, rfl⟩ := exec_request_cases hrequest
  · obtain ⟨id, slot, hid, hslot, rfl⟩ := authenticatedRequest_next (hexec s ▸ h)
    refine ⟨_, encoderOutputs_sentOutputs (frame slot opcode args id), buildAndSend_frame .., fun s' hidentity => ?_⟩
    obtain ⟨hid', hslot'⟩ := hidentity.resolve_left (by simp [hpairing])
    exact ⟨_, (hexec s').trans (authenticatedRequest_written (hid'.trans hid) (hslot'.trans hslot) opcode args),
      buildAndSend_outbox_sent ..⟩
  · obtain ⟨hn, rfl⟩ | ⟨hn, rfl⟩ := exec_pairClient_next h
    · exact ⟨_, encoderOutputs_nameTooLong name.length, rfl, fun s' _ => ⟨_, exec_pairClient_long hn newId s', rfl⟩⟩
    · exact ⟨_, encoderOutputs_sentOutputs _, buildAndSend_frame ..,
        fun s' _ => ⟨_, exec_pairClient_fits hn newId s', buildAndSend_outbox_sent ..⟩⟩

/-- Settles O26: `exec_request_pure`, the encoder's outputs being neither dispatches nor diagnostics. -/
theorem requestsArePure : Obligations.RequestsArePure := by
  intro i s t hrequest h
  obtain ⟨out, hout, hframe, hsame⟩ := exec_request_pure hrequest h
  obtain ⟨hdispatch, hdiag⟩ := hout.quiet
  exact ⟨out, hframe, hdispatch, hdiag, hsame⟩

/-! ### The one command that ends in `INVALID_ARGUMENT` (R159, R261) -/

/-- Everything an operation that completes can report on `HOST`: an error only for a pairing name that is too long. -/
theorem exec_hostResults {i : Instr} {s t : State} (h : exec i s = .next t) :
    ∃ out, t.outbox = s.outbox ++ out ∧
      ∀ c, some c ∈ hostResults out → ∃ newId name, i = .pairClient newId name ∧ 20 < name.length ∧
        c = .nameTooLong name.length := by
  cases execKind i with
  | authenticated opcode args _ hexec =>
    obtain ⟨id, slot, -, -, rfl⟩ := authenticatedRequest_next (hexec s ▸ h)
    exact ⟨_, buildAndSend_outbox_sent .., by simp⟩
  | pairing newId name =>
    obtain ⟨hn, rfl⟩ | ⟨-, rfl⟩ := exec_pairClient_next h
    · exact ⟨_, rfl, fun c hc => ⟨newId, name, rfl, hn, by simpa [hostResults, Cause.report] using hc⟩⟩
    · exact ⟨_, buildAndSend_outbox_sent .., by simp⟩
  | delivery f _ hexec =>
    obtain ⟨out, hout, happend⟩ := fragmentStep_outputs (hexec s ▸ h)
    exact ⟨out, happend, by simp [hout.quiet.2]⟩
  | writeId | writeSlot | reset =>
    cases h
    exact ⟨[], (List.append_nil _).symm, by simp [hostResults]⟩

/-- Settles O21: the report of a long name is the whole effect (`exec_pairClient_long`), and no other operation reports
an error (`exec_hostResults`). -/
theorem pairClientRejectsLongName : Obligations.PairClientRejectsLongName := by
  refine ⟨fun s newId name hlong => exec_pairClient_long hlong newId s, fun i s t out c h happend hc => ?_⟩
  obtain ⟨out', happend', hreports⟩ := exec_hostResults h
  obtain rfl : out = out' := List.append_cancel_left (happend.symm.trans happend')
  exact hreports c hc

/-! ### The frames of the requests, row by row (R144 to R152, R154, R156) -/

/-- A request without arguments sends a 5-byte frame. -/
theorem sendsOneChunk_bare {i : Instr} {opcode : Byte} {s : State} {id : Word} {slot : Byte}
    (hexec : exec i s = authenticatedRequest opcode [] s) (hid : s.clientId = some id)
    (hslot : s.clientSlot = some slot) : SendsOneChunk i s [slot, opcode, 0x00] id :=
  sendsOneChunk_of_authenticated (args := []) hexec hid hslot (Nat.zero_le _)

/-- A request with one argument byte sends a 6-byte frame. -/
theorem sendsOneChunk_oneArgument {i : Instr} {opcode a : Byte} {s : State} {id : Word} {slot : Byte}
    (hexec : exec i s = authenticatedRequest opcode [a] s) (hid : s.clientId = some id)
    (hslot : s.clientSlot = some slot) : SendsOneChunk i s [slot, opcode, 0x01, a] id :=
  sendsOneChunk_of_authenticated (args := [a]) hexec hid hslot (show 1 ≤ 15 by decide)

/-- Settles O16: four requests without arguments; the examples are the same frames with the check bytes computed. -/
theorem bareQueriesSendFiveByteFrames : Obligations.BareQueriesSendFiveByteFrames := by
  refine ⟨fun s id slot hid hslot => ⟨?_, ?_, ?_, ?_⟩, ?_, ?_, ?_, ?_, ?_, ?_⟩
  iterate 4 exact sendsOneChunk_bare rfl hid hslot
  all_goals exact presents_of_sendsOneChunk (sendsOneChunk_bare rfl rfl rfl) (by decide +kernel)

/-- Settles O17: three requests with one argument byte; the examples are the same frames with the check bytes
computed. -/
theorem constantQueriesSendSixByteFrames : Obligations.ConstantQueriesSendSixByteFrames := by
  refine ⟨fun s id slot hid hslot => ⟨?_, ?_, ?_⟩, ?_, ?_, ?_⟩
  iterate 3 exact sendsOneChunk_oneArgument rfl hid hslot
  all_goals exact presents_of_sendsOneChunk (sendsOneChunk_oneArgument rfl rfl rfl) (by decide +kernel)

/-- Adding bytes is adding modulo 256 (R93). -/
theorem add_eq_ofNat_mod (a b : Byte) : a + b = BitVec.ofNat 8 ((a.toNat + b.toNat) % 256) :=
  BitVec.eq_of_toNat_eq (by simp)

/-- Settles O18: four requests with one argument byte, the details queries' wrapping modulo 256 (`add_eq_ofNat_mod`);
the examples are the same frames with the check bytes computed. -/
theorem slotRequestsSendSixByteFrames : Obligations.SlotRequestsSendSixByteFrames := by
  refine ⟨fun s id slot n hid hslot => ⟨?_, ?_, ?_, ?_⟩, ?_, ?_, ?_, ?_⟩
  · exact add_eq_ofNat_mod 0x10 n ▸ sendsOneChunk_oneArgument rfl hid hslot
  · exact add_eq_ofNat_mod 0x40 n ▸ sendsOneChunk_oneArgument rfl hid hslot
  · exact sendsOneChunk_oneArgument rfl hid hslot
  · exact sendsOneChunk_oneArgument rfl hid hslot
  all_goals exact presents_of_sendsOneChunk (sendsOneChunk_oneArgument rfl rfl rfl) (by decide +kernel)

/-! ### The identity writes (R157, R158) -/

/-- Settles O28: each write is the update of its register alone. -/
theorem identityWritesTheirRegister : Obligations.IdentityWritesTheirRegister :=
  fun s v w => ⟨exec_setClientId v s, exec_setClientSlot w s⟩

end Sys2Proof.Machine

/-! ## The notification reassembler (42_reassembler.md)

A delivery in a state with `BUF_LEN` 0 is an Idle step, in any other an Accumulating one (`exec_delivery_idle`,
`exec_delivery_accumulating`); what each of the two answers is said case by case above. The two that store bytes are
`storedFirst` and `storedMore`, whose buffer and length are read back here. A payload in pieces (R207) is followed by
`Holds`: the bytes a notification in flight holds so far. -/

namespace Sys2Proof.Machine

open Sys2Proof.Claims

/-! ### A delivery is the step that `BUF_LEN` selects (R191) -/

theorem exec_delivery_idle {i : Instr} {f : Bytes} {s : State} (hi : IsDelivery i f) (h0 : s.bufLen = 0) :
    exec i s = idleStep f s :=
  (exec_delivery hi s).trans (fragmentStep_idle ((rxState_idle_iff s).2 h0) f)

theorem exec_delivery_accumulating {i : Instr} {f : Bytes} {s : State} (hi : IsDelivery i f) (h0 : s.bufLen ≠ 0) :
    exec i s = accumulatingStep f s :=
  (exec_delivery hi s).trans (fragmentStep_accumulating ((rxState_accumulating_iff s).2 h0) f)

theorem isDelivery_inj {i : Instr} {f g : Bytes} (hf : IsDelivery i f) (hg : IsDelivery i g) : f = g := by
  rcases hf with rfl | rfl <;> simpa [IsDelivery] using hg

theorem not_isDelivery_of_encoderSide {i : Instr} (hi : IsEncoderSide i) (f : Bytes) : ¬ IsDelivery i f := by
  rintro (rfl | rfl) <;> cases hi.1

theorem not_isDelivery_rxReset (f : Bytes) : ¬ IsDelivery .rxReset f := by
  simp [IsDelivery]

/-! ### The Idle step without storing (R192, R193, R196 to R198) -/

/-- Settles O31: `idleStep_short` under either label. -/
theorem idleShortFragmentIsDropped : Obligations.IdleShortFragmentIsDropped :=
  fun s _ _ hi h0 hshort => (exec_delivery_idle hi h0).trans (idleStep_short hshort s)

/-- Settles O33: `idleStep_headerAlone` under either label. -/
theorem idleHeaderAloneIsLost : Obligations.IdleHeaderAloneIsLost :=
  fun s _ marker x _ hi h0 hexp =>
    (exec_delivery_idle hi h0).trans (idleStep_headerAlone (BitVec.toNat_pos_of_ne_zero hexp) marker x s)

/-- Settles O34: `idleStep_complete` under either label. -/
theorem idleCompletePayloadIsDispatched : Obligations.IdleCompletePayloadIsDispatched :=
  fun s _ marker x _ _ hi h0 hlen => (exec_delivery_idle hi h0).trans (idleStep_complete hlen marker x s)

/-- Settles O35: `idleStep_overlong` under either label. -/
theorem idleOverlongPayloadIsDropped : Obligations.IdleOverlongPayloadIsDropped :=
  fun s _ marker x _ _ hi h0 hlen => (exec_delivery_idle hi h0).trans (idleStep_overlong hlen marker x s)

/-! ### The stored bytes read back (R195, R200) -/

theorem Memory.read_writeBytes_inside {bs : Bytes} {k : Nat} (h : k < bs.length) (m : Memory) (a : Nat) :
    (m.writeBytes a bs).read (a + k) = bs[k]? := by
  rw [Memory.read_writeBytes, if_pos (by omega), Nat.add_sub_cancel_left]

theorem Memory.read_writeBytes_outside {bs : Bytes} {a k : Nat} (h : k < a ∨ a + bs.length ≤ k) (m : Memory) :
    (m.writeBytes a bs).read k = m.read k := by
  rw [Memory.read_writeBytes, if_neg (by omega)]

/-- A length below a byte's value fits a byte. -/
theorem toNat_ofNat_of_lt {n : Nat} {exp : Byte} (h : n < exp.toNat) : (BitVec.ofNat 8 n).toNat = n := by
  rw [BitVec.toNat_ofNat, Nat.mod_eq_of_lt (h.trans exp.isLt)]

theorem storedFirst_bufLen_toNat {init : Bytes} {exp : Byte} (h : init.length < exp.toNat) (s : State) (slot : Byte) :
    (storedFirst s slot exp init).bufLen.toNat = init.length :=
  toNat_ofNat_of_lt h

theorem storedMore_bufLen_toNat {s : State} {f : Bytes} {exp : Byte} (h : s.bufLen.toNat + f.length < exp.toNat) :
    (storedMore s f).bufLen.toNat = s.bufLen.toNat + f.length :=
  toNat_ofNat_of_lt h

theorem storedFirst_read {init : Bytes} {k : Nat} (h : k < init.length) (s : State) (slot exp : Byte) :
    (storedFirst s slot exp init).buf.read k = init[k]? := by
  simpa [storedFirst] using Memory.read_writeBytes_inside h s.buf 0

theorem storedMore_read {f : Bytes} {k : Nat} (h : k < f.length) (s : State) :
    (storedMore s f).buf.read (s.bufLen.toNat + k) = f[k]? :=
  Memory.read_writeBytes_inside h s.buf s.bufLen.toNat

theorem storedMore_read_outside {s : State} {f : Bytes} {a : Nat}
    (h : a < s.bufLen.toNat ∨ s.bufLen.toNat + f.length ≤ a) : (storedMore s f).buf.read a = s.buf.read a :=
  Memory.read_writeBytes_outside h s.buf

theorem bufLen_ne_zero_iff (s : State) : s.bufLen ≠ 0 ↔ 0 < s.bufLen.toNat :=
  (BitVec.pos_iff_ne_zero _).symm.trans (BitVec.toNat_pos _).symm

/-- Storing the first piece of a payload leaves the machine Accumulating (R195). -/
theorem storedFirst_rxState {init : Bytes} {exp : Byte} (hpos : 0 < init.length) (h : init.length < exp.toNat)
    (s : State) (slot : Byte) : (storedFirst s slot exp init).rxState = .accumulating := by
  rwa [rxState_accumulating_iff, bufLen_ne_zero_iff, storedFirst_bufLen_toNat h]

/-- Storing a continuation leaves the machine Accumulating (R200). -/
theorem storedMore_rxState {s : State} {f : Bytes} {exp : Byte} (h0 : s.bufLen ≠ 0)
    (h : s.bufLen.toNat + f.length < exp.toNat) : (storedMore s f).rxState = .accumulating := by
  rw [rxState_accumulating_iff, bufLen_ne_zero_iff, storedMore_bufLen_toNat h]
  exact Nat.add_pos_left ((bufLen_ne_zero_iff s).1 h0) _

/-- An empty continuation is stored without a trace (R200). -/
theorem storedMore_nil (s : State) : storedMore s [] = s := by
  simp [storedMore, Memory.writeBytes]

/-- The slot of a marker is a subtraction modulo 256, below `0x40` too (R194). -/
theorem markerSlot_eq_ofNat_mod (marker : Byte) :
    markerSlot marker = BitVec.ofNat 8 ((marker.toNat + 256 - 0x40) % 256) := by
  unfold markerSlot
  bv_omega

/-- Settles O32: the next state is `storedFirst`, which reads back as the stored piece and as before beyond it. -/
theorem idleFirstPieceIsStored : Obligations.IdleFirstPieceIsStored := by
  intro s i marker x exp init hi h0 hpos hlt
  refine ⟨storedFirst s (markerSlot marker) exp init,
    (exec_delivery_idle hi h0).trans (idleStep_store (List.ne_nil_of_length_pos hpos) hlt marker x s),
    storedFirst_rxState hpos hlt s _, storedFirst_bufLen_toNat hlt s _,
    congrArg some (markerSlot_eq_ofNat_mod marker), rfl, fun k hk => storedFirst_read hk s _ exp, fun a ha => ?_, rfl⟩
  exact Memory.read_writeBytes_outside (.inr (by rwa [Nat.zero_add])) s.buf

/-! ### The Accumulating step (R199 to R202) -/

theorem exec_delivery_extend {i : Instr} {f : Bytes} {s : State} {exp : Byte} (hi : IsDelivery i f)
    (h0 : s.bufLen ≠ 0) (he : s.expLen = some exp) (h : s.bufLen.toNat + f.length < exp.toNat) :
    exec i s = .next (storedMore s f) :=
  (exec_delivery_accumulating hi h0).trans (accumulatingStep_extend he h)

/-- Settles O36: the next state is `storedMore`, which reads back as the fragment and as before outside it; with an
empty fragment it is the state itself (`storedMore_nil`). -/
theorem continuationIsAppended : Obligations.ContinuationIsAppended := by
  refine ⟨fun s i f exp hi h0 he hlt => ?_, fun s i hi hinv h0 => ?_⟩
  · exact ⟨storedMore s f, exec_delivery_extend hi h0 he hlt, storedMore_bufLen_toNat hlt,
      fun k hk => storedMore_read hk s, fun a ha => storedMore_read_outside ha, rfl⟩
  · obtain ⟨_, exp, _, -, he, hlt, -⟩ := hinv.accumulating ((rxState_accumulating_iff s).2 h0)
    exact (exec_delivery_extend hi h0 he hlt).trans (congrArg _ (storedMore_nil s))

/-- Settles O37: the invariant gives the slot and the held prefix that a completing fragment dispatches. -/
theorem continuationCompletesAndDispatches : Obligations.ContinuationCompletesAndDispatches := by
  intro s i f exp hi hinv h0 he hsum
  obtain ⟨slot, _, held, hslot, -, -, -, hread, hlen, hheld⟩ :=
    hinv.accumulating ((rxState_accumulating_iff s).2 h0)
  exact ⟨slot, held, hslot, hlen, hheld,
    (exec_delivery_accumulating hi h0).trans (accumulatingStep_complete he hslot hsum hread)⟩

/-- Settles O38: `accumulatingStep_overflow` under either label. -/
theorem continuationOverflowIsDropped : Obligations.ContinuationOverflowIsDropped :=
  fun _ _ _ _ hi h0 he hgt => (exec_delivery_accumulating hi h0).trans (accumulatingStep_overflow he hgt)

/-- Settles O46: the completed notification leaves `BUF_LEN` 0 (R201), where an empty fragment is a short one. -/
theorem emptyPieceAfterCompletionIsShort : Obligations.EmptyPieceAfterCompletionIsShort := by
  intro s t f exp hinv h0 he hsum h
  obtain ⟨slot, held, -, -, -, hnext⟩ := continuationCompletesAndDispatches s _ f exp (.inr rfl) hinv h0 he hsum
  cases hnext.symm.trans h
  exact (exec_delivery_idle (.inl rfl) rfl).trans (idleStep_short (by decide) _)

/-- Settles O47: the whole notification is one continuation that leaves the old payload incomplete. -/
theorem stalePartialSwallowsNextNotification : Obligations.StalePartialSwallowsNextNotification := by
  intro s marker x payload exp h0 he hlt
  exact ⟨_, exec_delivery_extend (.inr rfl) h0 he hlt, rfl, rfl, he, storedMore_bufLen_toNat hlt,
    fun k hk => storedMore_read hk s, fun a ha => storedMore_read_outside (.inl ha)⟩

/-! ### `RX_RESET` (R203) -/

/-- In an Idle state of the invariant nothing is pending, so clearing changes nothing (R30). -/
theorem State.Inv.clearReassembly_idle {s : State} (hi : s.Inv) (h0 : s.bufLen = 0) : s.clearReassembly = s := by
  obtain ⟨-, hslot, hexp, -, -⟩ := hi
  have hslot : s.pendSlot = none := by simpa [h0] using hslot
  have hexp : s.expLen = none := by simpa [h0] using hexp
  exact State.ext rfl rfl rfl rfl h0.symm hslot.symm hexp.symm rfl rfl

/-- Settles O39: `RX_RESET` is `clearReassembly`. -/
theorem rxResetClearsReassembly : Obligations.RxResetClearsReassembly :=
  ⟨exec_rxReset, fun s hi h0 => (exec_rxReset s).trans (congrArg _ (hi.clearReassembly_idle h0))⟩

/-! ### Every fragment completes, with at most one output (R190) -/

theorem fragmentStep_completes {s : State} (hi : s.Inv) (f : Bytes) : ∃ t, fragmentStep f s = .next t := by
  cases hr : s.rxState with
  | idle =>
    obtain ⟨t, ht⟩ := idleStep_completes f s
    exact ⟨t, (fragmentStep_idle hr f).trans ht⟩
  | accumulating =>
    rw [fragmentStep_accumulating hr]
    obtain ⟨_, _, _, -, -, -, -, -, hcases⟩ := accumulatingStep_cases hi hr f
    rcases hcases with ⟨-, e⟩ | ⟨-, e⟩ | ⟨-, e⟩ <;> exact ⟨_, e⟩

theorem idleStep_outbox_length {f : Bytes} {s t : State} (h : idleStep f s = .next t) :
    t.outbox.length ≤ s.outbox.length + 1 := by
  rcases idleStep_cases f s with
    ⟨-, e⟩ | ⟨_, _, _, _, -, ⟨-, -, e⟩ | ⟨-, -, e⟩ | ⟨-, e⟩ | ⟨-, e⟩⟩ <;>
  · rw [e] at h
    cases h
    simp [storedFirst]

theorem accumulatingStep_outbox_length {f : Bytes} {s t : State} (h : accumulatingStep f s = .next t) :
    t.outbox.length ≤ s.outbox.length + 1 := by
  obtain ⟨exp, -, ⟨-, rfl⟩ | ⟨-, hcomplete⟩ | ⟨-, rfl⟩⟩ := accumulatingStep_next h
  · simp [storedMore]
  · obtain ⟨slot, held, -, -, rfl⟩ := completeNotification_next hcomplete
    simp
  · simp

theorem fragmentStep_outbox_length {f : Bytes} {s t : State} (h : fragmentStep f s = .next t) :
    t.outbox.length ≤ s.outbox.length + 1 := by
  cases hr : s.rxState with
  | idle => exact idleStep_outbox_length (fragmentStep_idle hr f ▸ h)
  | accumulating => exact accumulatingStep_outbox_length (fragmentStep_accumulating hr f ▸ h)

/-- An output is presented on one port. -/
theorem dispatches_length_add_diagnostics_length_le (out : List Output) :
    (dispatches out).length + (diagnostics out).length ≤ out.length := by
  induction out with
  | nil => simp [dispatches, diagnostics]
  | cons o out ih =>
    simp only [dispatches, diagnostics] at ih
    cases o <;> simp only [dispatches, diagnostics, List.filterMap_cons, List.length_cons] <;> omega

/-- Settles O40: a fragment step completes in the invariant (`fragmentStep_completes`), keeps it, presents at most one
output on the reassembler's ports and writes the reassembly registers alone (`fragmentStep_local`). -/
theorem fragmentsAreTotalAndQuiet : Obligations.FragmentsAreTotalAndQuiet := by
  intro s f hi
  obtain ⟨t, ht⟩ := fragmentStep_completes hi f
  obtain ⟨out, hout, happend⟩ := fragmentStep_outputs ht
  obtain ⟨htx, hhost⟩ := hout.quiet
  have hone : out.length ≤ 1 := by simpa [happend] using fragmentStep_outbox_length ht
  have hinv : t.Inv := fragmentStep_inv hi ht
  obtain ⟨r, _, rfl, -⟩ := fragmentStep_local ht
  exact ⟨_, out, ht, ht, hinv, happend, (dispatches_length_add_diagnostics_length_le out).trans hone, htx, hhost,
    rfl, rfl, rfl, rfl⟩

/-! ### The transitions of `RX_STATE` (R213) -/

/-- The header of a fragment announces more payload than the fragment brings, and it brings some. -/
theorem announcesMore_iff (marker x exp : Byte) (init : Bytes) :
    (∃ e : Byte, (marker :: x :: exp :: init)[2]? = some e ∧ 3 < (marker :: x :: exp :: init).length ∧
      (marker :: x :: exp :: init).length - 3 < e.toNat) ↔ init ≠ [] ∧ init.length < exp.toNat := by
  simp [List.length_pos_iff]

theorem idleStep_accumulating_iff {f : Bytes} {s t : State} (h0 : s.bufLen = 0) (h : idleStep f s = .next t) :
    t.rxState = .accumulating ↔ ∃ exp, f[2]? = some exp ∧ 3 < f.length ∧ f.length - 3 < exp.toNat := by
  obtain ⟨hshort, e⟩ | ⟨marker, x, exp, init, rfl, hcases⟩ := idleStep_cases f s
  · rw [e] at h
    cases h
    exact iff_of_false (by simp [rxState_accumulating_iff, h0]) fun ⟨_, _, hlong, _⟩ => by omega
  · rw [announcesMore_iff]
    obtain ⟨hne, hlt, e⟩ | ⟨rfl, -, e⟩ | ⟨heq, e⟩ | ⟨hgt, e⟩ := hcases
    all_goals
      rw [e] at h
      cases h
    · exact iff_of_true (storedFirst_rxState (List.length_pos_of_ne_nil hne) hlt s _) ⟨hne, hlt⟩
    · simp [rxState_accumulating_iff, h0]
    · simp [rxState_accumulating_iff, h0, heq]
    · simp [rxState_accumulating_iff, h0, hgt.le]

theorem accumulatingStep_idle_iff {f : Bytes} {s t : State} {exp : Byte} (h0 : s.bufLen ≠ 0)
    (he : s.expLen = some exp) (h : accumulatingStep f s = .next t) :
    t.rxState = .idle ↔ exp.toNat ≤ s.bufLen.toNat + f.length := by
  obtain ⟨exp', he', hcases⟩ := accumulatingStep_next h
  cases he.symm.trans he'
  obtain ⟨hlt, rfl⟩ | ⟨heq, hcomplete⟩ | ⟨hgt, rfl⟩ := hcases
  · simp [storedMore_rxState h0 hlt, hlt]
  · obtain ⟨slot, held, -, -, rfl⟩ := completeNotification_next hcomplete
    exact iff_of_true rfl heq.ge
  · exact iff_of_true rfl hgt.le

/-- Settles O41: the encoder's side leaves `RX_STATE` as it is, `RX_RESET` ends Idle, and a delivery is one of the two
steps, whose transitions are `idleStep_accumulating_iff` and `accumulatingStep_idle_iff`. -/
theorem rxStateTransitions : Obligations.RxStateTransitions := by
  intro i s t hinv h
  by_cases hside : IsEncoderSide i
  · obtain ⟨r, out, -, rfl, -⟩ := exec_encoderSide hside h
    have hnot := not_isDelivery_of_encoderSide hside
    have hsame : (s.withEncoder r out).rxState = s.rxState := rfl
    refine ⟨fun hidle => ?_, fun hacc => ?_⟩
    · simp [hsame, hidle, hnot]
    · simp [hsame, hacc, hnot, hside.2]
  obtain ⟨f, hi⟩ | rfl := reassemblerSide_cases hside
  · refine ⟨fun hidle => ?_, fun hacc => ?_⟩
    · have h0 := (rxState_idle_iff s).1 hidle
      rw [idleStep_accumulating_iff h0 (exec_delivery_idle hi h0 ▸ h)]
      refine ⟨fun ⟨exp, hexp⟩ => ⟨f, exp, hi, hexp⟩, fun ⟨g, exp, hg, hexp⟩ => ?_⟩
      exact ⟨exp, isDelivery_inj hi hg ▸ hexp⟩
    · have h0 := (rxState_accumulating_iff s).1 hacc
      obtain ⟨_, exp, _, -, he, -⟩ := hinv.accumulating hacc
      rw [accumulatingStep_idle_iff h0 he (exec_delivery_accumulating hi h0 ▸ h)]
      refine ⟨fun hle => .inr ⟨f, exp, hi, he, hle⟩, ?_⟩
      rintro (rfl | ⟨g, exp', hg, he', hle⟩)
      · exact absurd hi (not_isDelivery_rxReset f)
      · cases he.symm.trans he'
        exact isDelivery_inj hi hg ▸ hle
  · cases h
    have hidle : s.clearReassembly.rxState = .idle := rfl
    simp [hidle, not_isDelivery_rxReset]

/-! ### Nothing else touches the reassembly registers (R205) -/

theorem run_noInput {s : State} (h : s.inbox = []) (n : Nat) : core.run n s = .next s := by
  induction n with
  | zero => rfl
  | succ n ih => rw [run_succ (step_noInput h), ih]

/-- Settles O42: an operation of the encoder's side writes the encoder's registers alone (`exec_encoderSide`). -/
theorem onlyFragmentsAndResetTouchReassembly : Obligations.OnlyFragmentsAndResetTouchReassembly := by
  refine ⟨fun i s t h hfragment hreset => ?_, fun s n hin => run_noInput hin n⟩
  obtain ⟨r, out, -, rfl, -⟩ := exec_encoderSide ⟨hfragment, hreset⟩ h
  exact ⟨rfl, rfl, rfl, rfl⟩

/-! ### A payload in pieces (R206, R207) -/

/-- A notification is in flight for this slot and expected length, and the buffer holds these bytes of it so far. -/
structure Holds (s : State) (slot exp : Byte) (acc : Bytes) : Prop where
  slot_pending : s.pendSlot = some slot
  length_expected : s.expLen = some exp
  bufLen_toNat : s.bufLen.toNat = acc.length
  nonempty : acc ≠ []
  incomplete : acc.length < exp.toNat
  reads : ∀ k < acc.length, s.buf.read k = acc[k]?

theorem holds_storedFirst {init : Bytes} {exp : Byte} (h0 : init ≠ []) (h : init.length < exp.toNat) (s : State)
    (slot : Byte) : Holds (storedFirst s slot exp init) slot exp init :=
  ⟨rfl, rfl, storedFirst_bufLen_toNat h s slot, h0, h, fun _ hk => storedFirst_read hk s slot exp⟩

theorem step_fragment_idle {s : State} {f : Bytes} {rest : List Input} (hin : s.inbox = .frag f :: rest)
    (h0 : s.bufLen = 0) : step s = idleStep f (s.takeInput rest) :=
  (step_fragment hin).trans (fragmentStep_idle ((rxState_idle_iff (s.takeInput rest)).2 h0) f)

section

variable {s : State} {slot exp : Byte} {acc f : Bytes}

theorem Holds.rxState (h : Holds s slot exp acc) : s.rxState = .accumulating := by
  rw [rxState_accumulating_iff, bufLen_ne_zero_iff, h.bufLen_toNat]
  exact List.length_pos_of_ne_nil h.nonempty

theorem Holds.takeInput (h : Holds s slot exp acc) (rest : List Input) : Holds (s.takeInput rest) slot exp acc :=
  ⟨h.slot_pending, h.length_expected, h.bufLen_toNat, h.nonempty, h.incomplete, h.reads⟩

/-- A continuation is held after the bytes before it. -/
theorem Holds.append (h : Holds s slot exp acc) (hlt : (acc ++ f).length < exp.toNat) :
    Holds (storedMore s f) slot exp (acc ++ f) := by
  have hsum : s.bufLen.toNat + f.length = (acc ++ f).length := by rw [h.bufLen_toNat, List.length_append]
  refine ⟨h.slot_pending, h.length_expected, (storedMore_bufLen_toNat (hsum ▸ hlt)).trans hsum,
    List.append_ne_nil_of_left_ne_nil h.nonempty f, hlt, fun k hk => ?_⟩
  rcases Nat.lt_or_ge k acc.length with hold | hnew
  · rw [storedMore_read_outside (.inl (h.bufLen_toNat ▸ hold)), h.reads k hold, List.getElem?_append_left hold]
  · obtain ⟨j, rfl⟩ := Nat.exists_eq_add_of_le hnew
    have hj : j < f.length := by simpa using hk
    rw [List.getElem?_append_right hnew, Nat.add_sub_cancel_left, ← h.bufLen_toNat, storedMore_read hj]

/-- The held prefix of the buffer reads as the held bytes. -/
theorem Holds.memRead_held (h : Holds s slot exp acc) : memRead s 0 s.bufLen.toNat = .ok acc := by
  have hcap : acc.length ≤ Config.bufCap := Nat.le_of_lt_succ (h.incomplete.trans_le (Nat.le_of_lt_succ exp.isLt))
  obtain ⟨bs, hread, hlen, hbs⟩ := memRead_written s acc.length hcap fun k hk => by
    simp [h.reads k hk, hk]
  have hsame : bs = acc := List.ext_getElem? fun k => by
    rcases Nat.lt_or_ge k acc.length with hk | hk
    · exact (hbs k hk).trans (h.reads k hk)
    · rw [List.getElem?_eq_none hk, List.getElem?_eq_none (hlen.trans_le hk)]
  rw [h.bufLen_toNat, hread, hsame]

theorem Holds.step_extend (h : Holds s slot exp acc) {rest : List Input} (hin : s.inbox = .frag f :: rest)
    (hlt : (acc ++ f).length < exp.toNat) : step s = .next (storedMore (s.takeInput rest) f) := by
  have h' := h.takeInput rest
  rw [step_fragment hin, fragmentStep_accumulating h'.rxState]
  exact accumulatingStep_extend h'.length_expected (by rwa [h'.bufLen_toNat, ← List.length_append])

theorem Holds.step_complete (h : Holds s slot exp acc) {rest : List Input} (hin : s.inbox = .frag f :: rest)
    (heq : (acc ++ f).length = exp.toNat) :
    step s = .next ((s.takeInput rest).emit [.dispatch slot (acc ++ f)]).clearReassembly := by
  have h' := h.takeInput rest
  rw [step_fragment hin, fragmentStep_accumulating h'.rxState]
  exact accumulatingStep_complete h'.length_expected h'.slot_pending
    (by rwa [h'.bufLen_toNat, ← List.length_append]) h'.memRead_held

end

/-- Over continuations that leave the payload incomplete, the machine holds what came, presents nothing and writes the
reassembly registers alone. -/
theorem Holds.run_continuations {slot exp : Byte} {rest : List Input} (mid : List Bytes) {s : State} {acc : Bytes}
    (h : Holds s slot exp acc) (hin : s.inbox = mid.map .frag ++ rest)
    (hlt : (acc ++ mid.flatten).length < exp.toNat) :
    ∃ r, core.run mid.length s = .next ((s.withReassembly r []).takeInput rest) ∧
      Holds ((s.withReassembly r []).takeInput rest) slot exp (acc ++ mid.flatten) := by
  induction mid generalizing s acc with
  | nil =>
    have hsame : (s.withReassembly s []).takeInput rest = s := by
      simp [State.withReassembly, State.takeInput, show rest = s.inbox from hin.symm]
    exact ⟨s, congrArg Host.Outcome.next hsame.symm, by rwa [hsame, List.flatten_nil, List.append_nil]⟩
  | cons f mid ih =>
    rw [List.flatten_cons, ← List.append_assoc] at hlt ⊢
    have hf : (acc ++ f).length < exp.toNat := by
      rw [List.length_append] at hlt
      omega
    obtain ⟨r, hrun, hholds⟩ := ih ((h.takeInput _).append hf) rfl hlt
    exact ⟨r, (run_succ (h.step_extend hin hf) _).trans hrun, hholds⟩

/-- A first piece and continuations that leave the payload incomplete: from Idle, the machine holds what came, presents
nothing and writes the reassembly registers alone. -/
theorem run_pieces {s : State} {marker x exp : Byte} {p0 : Bytes} {mid : List Bytes} {rest : List Input}
    (h0 : s.bufLen = 0) (hp0 : p0 ≠ [])
    (hin : s.inbox = .frag (marker :: x :: exp :: p0) :: (mid.map .frag ++ rest))
    (hlt : (p0 ++ mid.flatten).length < exp.toNat) :
    ∃ r, core.run (mid.length + 1) s = .next ((s.withReassembly r []).takeInput rest) ∧
      Holds ((s.withReassembly r []).takeInput rest) (markerSlot marker) exp (p0 ++ mid.flatten) := by
  have hfirst : p0.length < exp.toNat := by
    rw [List.length_append] at hlt
    omega
  have hopened := holds_storedFirst hp0 hfirst (s.takeInput (mid.map .frag ++ rest)) (markerSlot marker)
  obtain ⟨r, hrun, hholds⟩ := hopened.run_continuations mid rfl hlt
  have hstored := (step_fragment_idle hin h0).trans (idleStep_store hp0 hfirst marker x _)
  exact ⟨r, (run_succ hstored mid.length).trans hrun, hholds⟩

/-- Settles O45: the pieces before the last one are held without output (`run_pieces`), and the last one completes the
payload (`Holds.step_complete`). -/
theorem splitPayloadIsDispatchedOnce : Obligations.SplitPayloadIsDispatchedOnce := by
  intro s marker x p0 last mid payload h0 hp0 hlast hpayload hmax hin
  have hexp : (BitVec.ofNat 8 payload.length).toNat = payload.length := by
    rw [BitVec.toNat_ofNat, Nat.mod_eq_of_lt (by omega)]
  have hbefore : (p0 ++ mid.flatten).length < (BitVec.ofNat 8 payload.length).toNat := by
    rw [hexp, hpayload, List.length_append (bs := last)]
    exact Nat.lt_add_of_pos_right (List.length_pos_of_ne_nil hlast)
  obtain ⟨r, hrun, hholds⟩ := run_pieces h0 hp0 hin hbefore
  have hcomplete := hholds.step_complete rfl (by rw [← hpayload, hexp])
  rw [← hpayload] at hcomplete
  refine ⟨⟨_, hrun, List.append_nil _⟩, ⟨_, (run_add hrun 1).trans (run_succ hcomplete 0), ?_⟩,
    (exec_delivery_idle (.inl rfl) h0).trans (idleStep_complete hexp.symm marker x s)⟩
  exact State.ext rfl rfl rfl rfl rfl rfl rfl rfl
    (congrArg (· ++ [Output.dispatch (markerSlot marker) payload]) (List.append_nil s.outbox))

end Sys2Proof.Machine

/-! ## The adjacent codecs (43_adjacent_codecs.md)

SUPPORT. The temperature codec as an affine map and a rounding; the text decoder as the inverse of the standard encoding
of characters (`utf8_eq_some_iff`, from one character and its four forms, `EncodesCodePoint`); the payload decoder's rows
by length, its client slot, and the listener's side. -/

namespace Sys2Proof.Machine

open Sys2Proof.Claims

/-! ### Temperatures (R230 to R233) -/

theorem roundNearest_intCast (z : Int) : roundNearest z = z := by
  have hfloor : (z : Rat).floor = z := Rat.floor_intCast z
  simp [roundNearest, hfloor]

/-- Rounding moves a number by at most a half, whichever way a tie goes. -/
theorem abs_roundNearest_sub_le (q : Rat) : |(roundNearest q : Rat) - q| ≤ 1 / 2 := by
  have hlow : (q.floor : Rat) ≤ q := Rat.floor_le q
  have hhigh : q < q.floor + 1 := by exact_mod_cast Rat.lt_floor_add_one q
  rw [abs_le]
  unfold roundNearest
  dsimp only
  split
  · constructor <;> linarith
  · split
    · push_cast
      constructor <;> linarith
    · split <;> push_cast <;> constructor <;> linarith

theorem roundNearest_mem_byte_range {q : Rat} (h0 : 0 ≤ q) (h255 : q ≤ 255) :
    0 ≤ roundNearest q ∧ roundNearest q ≤ 255 := by
  obtain ⟨hlow, hhigh⟩ := abs_le.mp (abs_roundNearest_sub_le q)
  have hneg : ((-1 : Int) : Rat) < roundNearest q := by push_cast; linarith
  have hover : (roundNearest q : Rat) < (256 : Int) := by push_cast; linarith
  exact ⟨Int.cast_lt.mp hneg, Int.lt_add_one_iff.mp (Int.cast_lt.mp hover)⟩

theorem clampByte_toNat {z : Int} (h0 : 0 ≤ z) (h255 : z ≤ 255) : ((clampByte z).toNat : Int) = z := by
  rw [clampByte, BitVec.toNat_ofNat]
  omega

theorem TempMap.ten_le_scale (m : TempMap) : 10 ≤ m.scale := by
  cases m <;> norm_num [TempMap.scale]

/-- Decoding an encoded temperature misses it by the rounding error alone, in degrees. -/
theorem tempDecode_tempEncode_sub {m : TempMap} {c : Rat} (h0 : 0 ≤ c * m.scale - m.offset)
    (h255 : c * m.scale - m.offset ≤ 255) :
    tempDecode m (tempEncode m c) - c =
      (roundNearest (c * m.scale - m.offset) - (c * m.scale - m.offset)) / m.scale := by
  have hscale : m.scale ≠ 0 := by linarith [m.ten_le_scale]
  obtain ⟨hlow, hhigh⟩ := roundNearest_mem_byte_range h0 h255
  have hbyte : ((tempEncode m c).toNat : Rat) = roundNearest (c * m.scale - m.offset) := by
    exact_mod_cast clampByte_toNat hlow hhigh
  rw [tempDecode, hbyte]
  field_simp
  ring

/-- Settles O48: under mapping A a tenth of a degree is one step of the byte, so nothing is rounded. -/
theorem tempEncodeOfTenths : Obligations.TempEncodeOfTenths := by
  intro t
  have hexact : (t : Rat) / 10 * TempMap.scale .a - TempMap.offset .a = ((t - 256 : Int) : Rat) := by
    push_cast [TempMap.scale, TempMap.offset]
    ring
  rw [tempEncode, hexact, roundNearest_intCast, clampByte]

/-- Settles O49: the affine mapping A, and its value at the rule's four bytes. -/
theorem tempDecodeOfBytes : Obligations.TempDecodeOfBytes :=
  ⟨fun _ => rfl, by decide +kernel, by decide +kernel, by decide +kernel, by decide +kernel⟩

/-- Settles O50: the error is half a step of the byte (`abs_roundNearest_sub_le`), and a step is at most a tenth of a
degree (`TempMap.ten_le_scale`). -/
theorem tempRoundTripWithinTenth : Obligations.TempRoundTripWithinTenth := by
  intro m c hlow hhigh
  have hscale : 0 < m.scale := by linarith [m.ten_le_scale]
  have h0 : m.offset + ((0x00 : Byte).toNat : Rat) ≤ c * m.scale := (div_le_iff₀ hscale).mp hlow
  have h255 : c * m.scale ≤ m.offset + ((0xFF : Byte).toNat : Rat) := (le_div_iff₀ hscale).mp hhigh
  rw [show ((0x00 : Byte).toNat : Rat) = 0 from rfl] at h0
  rw [show ((0xFF : Byte).toNat : Rat) = 255 from rfl] at h255
  rw [tempDecode_tempEncode_sub (by linarith) (by linarith), abs_div, abs_of_pos hscale, div_le_iff₀ hscale]
  linarith [abs_roundNearest_sub_le (c * m.scale - m.offset), m.ten_le_scale]

/-! ### One character of UTF-8 (R245; log entry 13) -/

theorem utf8Tail_eq_some_iff {b : Byte} {t : Nat} : utf8Tail b = some t ↔ b.toNat = 0x80 + t ∧ t < 64 := by
  simp only [utf8Tail, Option.ite_none_right_eq_some, Option.some.injEq]
  omega

/-- Only a valid code point is accepted, so what is accepted is that of the character answered. -/
theorem utf8Accept_eq_some_iff {least cp : Nat} {c : Char} {rest rest' : Bytes} :
    utf8Accept least cp rest = some (c, rest') ↔ cp = c.toNat ∧ least ≤ c.toNat ∧ rest = rest' := by
  simp only [utf8Accept, Option.ite_none_right_eq_some, Option.some.injEq, Prod.mk.injEq]
  constructor
  · rintro ⟨⟨hleast, hvalid⟩, rfl, rfl⟩
    rw [Char.toNat_ofNat, if_pos hvalid]
    exact ⟨rfl, hleast, rfl⟩
  · rintro ⟨rfl, hleast, rfl⟩
    exact ⟨⟨hleast, c.valid⟩, Char.ofNat_toNat c, rfl⟩

/-- The bytes that encode a code point: the shortest of the four forms that has room for it. -/
def EncodesCodePoint (cp : Nat) : Bytes → Prop
  | [b0] => cp < 0x80 ∧ b0.toNat = cp
  | [b0, b1] => 0x80 ≤ cp ∧ cp < 0x800 ∧ b0.toNat = 0xC0 + cp / 64 ∧ b1.toNat = 0x80 + cp % 64
  | [b0, b1, b2] => 0x800 ≤ cp ∧ cp < 0x10000 ∧ b0.toNat = 0xE0 + cp / 4096 ∧ b1.toNat = 0x80 + cp / 64 % 64 ∧
      b2.toNat = 0x80 + cp % 64
  | [b0, b1, b2, b3] => 0x10000 ≤ cp ∧ b0.toNat = 0xF0 + cp / 262144 ∧ b1.toNat = 0x80 + cp / 4096 % 64 ∧
      b2.toNat = 0x80 + cp / 64 % 64 ∧ b3.toNat = 0x80 + cp % 64
  | _ => False

theorem textBytes_singleton (c : Char) : textBytes [c] = (String.utf8EncodeChar c).map UInt8.toBitVec := by
  simp [textBytes]

theorem textBytes_cons (c : Char) (cs : List Char) : textBytes (c :: cs) = textBytes [c] ++ textBytes cs := by
  simp [textBytes]

theorem charToNat_lt (c : Char) : c.toNat < 0x110000 := by
  rcases c.valid with h | h
  · exact Nat.lt_trans h (by decide)
  · exact h.2

theorem encodesCodePoint_textBytes (c : Char) : EncodesCodePoint c.toNat (textBytes [c]) := by
  have hmax := charToNat_lt c
  rw [textBytes_singleton, String.utf8EncodeChar, Char.toNat_val]
  split_ifs
  all_goals
    simp [EncodesCodePoint]
    omega

/-- A code point has one encoding. -/
theorem EncodesCodePoint.eq_textBytes {c : Char} {f : Bytes} (h : EncodesCodePoint c.toNat f) : f = textBytes [c] := by
  have hmax := charToNat_lt c
  rw [textBytes_singleton, String.utf8EncodeChar, Char.toNat_val]
  match f, h with
  | [b0], ⟨hlt, h0⟩ =>
    rw [if_pos (by omega)]
    simp [← BitVec.toNat_inj, h0]
    omega
  | [b0, b1], ⟨hge, hlt, h0, h1⟩ =>
    rw [if_neg (by omega), if_pos (by omega)]
    simp [← BitVec.toNat_inj, h0, h1]
    omega
  | [b0, b1, b2], ⟨hge, hlt, h0, h1, h2⟩ =>
    rw [if_neg (by omega), if_neg (by omega), if_pos (by omega)]
    simp [← BitVec.toNat_inj, h0, h1, h2]
    omega
  | [b0, b1, b2, b3], ⟨hge, h0, h1, h2, h3⟩ =>
    rw [if_neg (by omega), if_neg (by omega), if_neg (by omega)]
    simp [← BitVec.toNat_inj, h0, h1, h2, h3]
    omega

/-- A character's bytes are read as that character, whatever follows them. -/
theorem utf8First_append {c : Char} {f : Bytes} (h : EncodesCodePoint c.toNat f) (rest : Bytes) :
    utf8First (f ++ rest) = some (c, rest) := by
  have hmax := charToNat_lt c
  match f, h with
  | [b0], ⟨hlt, h0⟩ =>
    simp only [List.cons_append, List.nil_append, utf8First]
    rw [if_pos (by omega)]
    exact utf8Accept_eq_some_iff.2 ⟨h0, Nat.zero_le _, rfl⟩
  | [b0, b1], ⟨hge, hlt, h0, h1⟩ =>
    simp only [List.cons_append, List.nil_append, utf8First]
    rw [if_neg (by omega), if_neg (by omega), if_pos (by omega), utf8Tail_eq_some_iff.2 ⟨h1, by omega⟩]
    exact utf8Accept_eq_some_iff.2 ⟨by omega, hge, rfl⟩
  | [b0, b1, b2], ⟨hge, hlt, h0, h1, h2⟩ =>
    simp only [List.cons_append, List.nil_append, utf8First]
    rw [if_neg (by omega), if_neg (by omega), if_neg (by omega), if_pos (by omega),
      utf8Tail_eq_some_iff.2 ⟨h1, by omega⟩, utf8Tail_eq_some_iff.2 ⟨h2, by omega⟩]
    exact utf8Accept_eq_some_iff.2 ⟨by omega, hge, rfl⟩
  | [b0, b1, b2, b3], ⟨hge, h0, h1, h2, h3⟩ =>
    simp only [List.cons_append, List.nil_append, utf8First]
    rw [if_neg (by omega), if_neg (by omega), if_neg (by omega), if_neg (by omega), if_pos (by omega),
      utf8Tail_eq_some_iff.2 ⟨h1, by omega⟩, utf8Tail_eq_some_iff.2 ⟨h2, by omega⟩,
      utf8Tail_eq_some_iff.2 ⟨h3, by omega⟩]
    exact utf8Accept_eq_some_iff.2 ⟨by omega, hge, rfl⟩

/-- Everything the decoder of one character accepts: the encoding of the character it answers. -/
theorem utf8First_some {bs rest : Bytes} {c : Char} (h : utf8First bs = some (c, rest)) :
    ∃ f, EncodesCodePoint c.toNat f ∧ bs = f ++ rest := by
  match bs with
  | [] => cases h
  | b0 :: bs =>
    simp only [utf8First] at h
    split at h
    · obtain ⟨hcp, -, rfl⟩ := utf8Accept_eq_some_iff.1 h
      exact ⟨[b0], ⟨by omega, hcp⟩, rfl⟩
    split at h
    · cases h
    split at h
    · split at h
      · next b1 bs =>
        obtain ⟨t1, h1, h⟩ := Option.bind_eq_some_iff.1 h
        obtain ⟨hcp, hge, rfl⟩ := utf8Accept_eq_some_iff.1 h
        obtain ⟨h1, hlt1⟩ := utf8Tail_eq_some_iff.1 h1
        exact ⟨[b0, b1], ⟨by omega, by omega, by omega, by omega⟩, rfl⟩
      · cases h
    split at h
    · split at h
      · next b1 b2 bs =>
        obtain ⟨t1, h1, h⟩ := Option.bind_eq_some_iff.1 h
        obtain ⟨t2, h2, h⟩ := Option.bind_eq_some_iff.1 h
        obtain ⟨hcp, hge, rfl⟩ := utf8Accept_eq_some_iff.1 h
        obtain ⟨h1, hlt1⟩ := utf8Tail_eq_some_iff.1 h1
        obtain ⟨h2, hlt2⟩ := utf8Tail_eq_some_iff.1 h2
        exact ⟨[b0, b1, b2], ⟨by omega, by omega, by omega, by omega, by omega⟩, rfl⟩
      · cases h
    split at h
    · split at h
      · next b1 b2 b3 bs =>
        obtain ⟨t1, h1, h⟩ := Option.bind_eq_some_iff.1 h
        obtain ⟨t2, h2, h⟩ := Option.bind_eq_some_iff.1 h
        obtain ⟨t3, h3, h⟩ := Option.bind_eq_some_iff.1 h
        obtain ⟨hcp, hge, rfl⟩ := utf8Accept_eq_some_iff.1 h
        obtain ⟨h1, hlt1⟩ := utf8Tail_eq_some_iff.1 h1
        obtain ⟨h2, hlt2⟩ := utf8Tail_eq_some_iff.1 h2
        obtain ⟨h3, hlt3⟩ := utf8Tail_eq_some_iff.1 h3
        exact ⟨[b0, b1, b2, b3], ⟨by omega, by omega, by omega, by omega, by omega⟩, rfl⟩
      · cases h
    · cases h

theorem utf8First_eq_some_iff {bs rest : Bytes} {c : Char} :
    utf8First bs = some (c, rest) ↔ bs = textBytes [c] ++ rest := by
  constructor
  · intro h
    obtain ⟨f, hf, rfl⟩ := utf8First_some h
    rw [hf.eq_textBytes]
  · rintro rfl
    exact utf8First_append (encodesCodePoint_textBytes c) rest

/-! ### A whole text (R245) -/

theorem textBytes_singleton_length_pos (c : Char) : 0 < (textBytes [c]).length := by
  rw [textBytes_singleton, List.length_map, String.length_utf8EncodeChar]
  exact c.utf8Size_pos

theorem utf8Loop_eq_some_nil_iff {fuel : Nat} {bs : Bytes} : utf8Loop fuel bs = some [] ↔ bs = [] := by
  cases bs with
  | nil => simp [utf8Loop]
  | cons b bs => cases fuel <;> simp [utf8Loop, Option.bind_eq_some_iff]

/-- The loop spends one unit of fuel on a character. -/
theorem utf8Loop_eq_some_cons_iff {fuel : Nat} {bs : Bytes} {c : Char} {cs : List Char} :
    utf8Loop fuel bs = some (c :: cs) ↔
      ∃ fuel' rest, fuel = fuel' + 1 ∧ utf8First bs = some (c, rest) ∧ utf8Loop fuel' rest = some cs := by
  cases bs with
  | nil => simp [utf8Loop, utf8First]
  | cons b bs => cases fuel <;> simp [utf8Loop, Option.bind_eq_some_iff]

/-- With fuel for all its bytes, the loop reads exactly the text that the bytes encode. -/
theorem utf8Loop_eq_some_iff {fuel : Nat} {bs : Bytes} {cs : List Char} (hfuel : bs.length ≤ fuel) :
    utf8Loop fuel bs = some cs ↔ bs = textBytes cs := by
  induction cs generalizing fuel bs with
  | nil => exact utf8Loop_eq_some_nil_iff
  | cons c cs ih =>
    have hpos := textBytes_singleton_length_pos c
    rw [utf8Loop_eq_some_cons_iff, textBytes_cons]
    constructor
    · rintro ⟨n, rest, rfl, hfirst, hrest⟩
      obtain rfl := utf8First_eq_some_iff.1 hfirst
      rw [List.length_append] at hfuel
      rw [(ih (by omega)).1 hrest]
    · rintro rfl
      rw [List.length_append] at hfuel
      exact ⟨fuel - 1, textBytes cs, by omega, utf8First_eq_some_iff.2 rfl, (ih (by omega)).2 rfl⟩

/-- The decoder and the standard encoding are inverse to each other. -/
theorem utf8_eq_some_iff {bs : Bytes} {cs : List Char} : utf8 bs = some cs ↔ bs = textBytes cs :=
  utf8Loop_eq_some_iff (Nat.le_refl _)

/-- Settles O53: what the decoder reads is exactly the encoding (`utf8_eq_some_iff`). -/
theorem wellFormedTextIsDecoded : Obligations.WellFormedTextIsDecoded := fun _ => utf8_eq_some_iff.2 rfl

/-! ### Payloads with text (R242 to R245) -/

theorem textEvent_textBytes (cs : List Char) (slot : Byte) (mk : List Char → Event) :
    textEvent slot (textBytes cs) mk = .event slot (mk cs) :=
  textEvent_wellFormed (utf8_eq_some_iff.2 rfl) slot mk

theorem textEvent_ne_textBytes {text : Bytes} (h : ∀ cs, text ≠ textBytes cs) (slot : Byte) (mk : List Char → Event) :
    textEvent slot text mk = .decodeError :=
  textEvent_malformed (Option.eq_none_iff_forall_ne_some.2 fun cs hcs => h cs (utf8_eq_some_iff.1 hcs)) slot mk

theorem decodePayload_presetDetails_append (m : TempMap) (slot : Byte) {head text : Bytes} (hhead : head.length = 8)
    (htext : text.length = 16) :
    decodePayload m slot (head ++ text) = textEvent slot text (.presetDetails (payloadByte (head ++ text) 0)
      (tempDecode m (payloadByte (head ++ text) 2)) (payloadByte (head ++ text) 4)
      (bitIndices (payloadByte (head ++ text) 5))) := by
  rw [decodePayload_presetDetails m slot (by rw [List.length_append, hhead, htext]), List.drop_left' hhead]

/-- Settles O54: the three text payloads are their text field's `textEvent` (R242 to R244), which is an event exactly
where the field encodes some characters. -/
theorem textPayloadsDecodeOrFail : Obligations.TextPayloadsDecodeOrFail := by
  intro m slot text
  refine ⟨?_, fun h => ⟨fun h16 h0 => ?_, fun h20 => ?_, fun h16 head hhead => ?_⟩⟩
  · rintro cs rfl
    refine ⟨fun h16 h0 => ?_, fun h20 => ?_, fun h16 b0 b1 b2 b3 b4 b5 b6 b7 => ?_⟩
    · rw [decodePayload_nickname m slot h16 h0, textEvent_textBytes]
    · rw [decodePayload_clientDetails m slot h20, textEvent_textBytes]
    · rw [decodePayload_presetDetails_append m slot rfl h16, textEvent_textBytes]
      rfl
  · rw [decodePayload_nickname m slot h16 h0, textEvent_ne_textBytes h]
  · rw [decodePayload_clientDetails m slot h20, textEvent_ne_textBytes h]
  · rw [decodePayload_presetDetails_append m slot hhead h16, textEvent_ne_textBytes h]

/-! ### Which payloads give no event (R246) -/

theorem textEvent_ne_noEvent (slot : Byte) (bs : Bytes) (mk : List Char → Event) :
    textEvent slot bs mk ≠ .noEvent := by
  unfold textEvent
  split <;> simp

theorem decodePayload_unlisted {p : Bytes} (h : p.length ∉ [1, 2, 4, 10, 11, 16, 20, 24]) (m : TempMap) (slot : Byte) :
    decodePayload m slot p = .noEvent := by
  unfold decodePayload
  split
  case h_9 => rfl
  all_goals
    next hlen =>
    rw [hlen] at h
    exact absurd (by decide) h

/-- Length 11 is read by its first byte (R239, R240, R246). -/
theorem decodePayload_eleven {rest : Bytes} (h : rest.length = 10) (m : TempMap) (slot b : Byte) :
    decodePayload m slot (b :: rest) =
      if b = 0x01 ∨ b = 0x80 then .event slot (decodeControlsOperated m (b :: rest))
      else if b = 0x00 ∨ b = 0x04 ∨ b = 0x08 then .event slot (decodeOutletSettings m (b :: rest))
      else .noEvent := by
  simp only [decodePayload, List.length_cons, h]
  rfl

theorem decodePayload_eleven_eq_noEvent_iff {rest : Bytes} (h : rest.length = 10) (m : TempMap) (slot b : Byte) :
    decodePayload m slot (b :: rest) = .noEvent ↔ b ∉ [(0x00 : Byte), 0x01, 0x04, 0x08, 0x80] := by
  rw [decodePayload_eleven h]
  split_ifs with hcontrols hsettings
  · rcases hcontrols with rfl | rfl <;> simp
  · rcases hsettings with rfl | rfl | rfl <;> simp
  · simp_all

/-- The other listed lengths give an event or, where they carry text, the decode error. -/
theorem decodePayload_ne_noEvent {p : Bytes} (h : p.length ∈ [1, 2, 4, 10, 11, 16, 20, 24]) (h11 : p.length ≠ 11)
    (m : TempMap) (slot : Byte) : decodePayload m slot p ≠ .noEvent := by
  unfold decodePayload
  dsimp only
  split
  case h_5 hlen => exact absurd hlen h11
  case h_6 =>
    split_ifs
    · simp
    · exact textEvent_ne_noEvent _ _ _
  case h_7 | h_8 => exact textEvent_ne_noEvent _ _ _
  case h_9 => simp_all
  all_goals simp

/-- Settles O51: an unlisted length gives no event, length 11 by its first byte, every other listed length gives some
answer. -/
theorem unlistedPayloadsGiveNoEvent : Obligations.UnlistedPayloadsGiveNoEvent := by
  intro m slot p
  by_cases hlisted : p.length ∈ [1, 2, 4, 10, 11, 16, 20, 24]
  · by_cases h11 : p.length = 11
    · obtain ⟨b, rest, rfl⟩ := List.exists_cons_of_length_eq_add_one h11
      rw [decodePayload_eleven_eq_noEvent_iff (Nat.succ.inj h11)]
      simp [h11]
    · simp [decodePayload_ne_noEvent hlisted h11, hlisted, h11]
  · simp [decodePayload_unlisted hlisted, hlisted]

/-! ### The client slot (R234) -/

/-- The same answer for another client slot. -/
def DecodeResult.withSlot (slot : Byte) : DecodeResult → DecodeResult
  | .event _ e => .event slot e
  | .noEvent => .noEvent
  | .decodeError => .decodeError

theorem textEvent_withSlot (slot other : Byte) (bs : Bytes) (mk : List Char → Event) :
    (textEvent slot bs mk).withSlot other = textEvent other bs mk := by
  unfold textEvent
  split <;> rfl

/-- The client slot is passed through: no row of the decoder's table reads it. -/
theorem decodePayload_withSlot (m : TempMap) (slot other : Byte) (p : Bytes) :
    (decodePayload m slot p).withSlot other = decodePayload m other p := by
  unfold decodePayload
  dsimp only
  split
  case h_5 => split_ifs <;> rfl
  case h_6 =>
    split_ifs
    · rfl
    · exact textEvent_withSlot ..
  case h_7 | h_8 => exact textEvent_withSlot ..
  all_goals rfl

theorem textEvent_event {slot slot' : Byte} {bs : Bytes} {mk : List Char → Event} {e : Event}
    (h : textEvent slot bs mk = .event slot' e) : ∃ cs, mk cs = e := by
  unfold textEvent at h
  split at h
  · next cs _ =>
    cases h
    exact ⟨cs, rfl⟩
  · cases h

/-! ### What the listener is handed (R264 to R266) -/

/-- Only a payload of length 1 gives the event with a status. -/
theorem decodePayload_status_length {m : TempMap} {slot slot' status : Byte} {p : Bytes}
    (h : decodePayload m slot p = .event slot' (.successOrFailure status)) : p.length = 1 := by
  unfold decodePayload at h
  dsimp only at h
  split at h
  case h_1 hlen => exact hlen
  case h_5 => split_ifs at h <;> cases h
  case h_6 =>
    split_ifs at h
    · cases h
    · obtain ⟨_, ⟨⟩⟩ := textEvent_event h
  case h_7 | h_8 =>
    obtain ⟨_, ⟨⟩⟩ := textEvent_event h
  all_goals cases h

theorem surface_event {e : Event} (h : ∀ status, e ≠ .successOrFailure status) (slot : Byte) :
    surface (.event slot e) = .event slot e := by
  cases e
  case successOrFailure status => exact absurd rfl (h status)
  all_goals rfl

theorem unknownStatus_eq_true_iff (status : Byte) :
    unknownStatus status = true ↔ status ∉ [Config.statusSuccess, Config.statusFailure] := by
  simp [unknownStatus]

theorem decodePayload_singleton (m : TempMap) (slot status : Byte) :
    decodePayload m slot [status] = .event slot (.successOrFailure status) := rfl

/-- Settles O55: the slot is passed through (`decodePayload_withSlot`), and only a payload of length 1 gives the event
whose status the listener's side looks at (`decodePayload_status_length`). -/
theorem listenerIsHandedEventsAndErrors : Obligations.ListenerIsHandedEventsAndErrors := by
  refine ⟨fun m slot slot' p e h => ?_, fun m slot status => ⟨fun hknown => ?_, fun hunknown => ?_⟩,
    fun m slot p hlen => ⟨fun e h => ?_, fun h => ?_, fun h => ?_⟩⟩
  · have hslot : ∀ other, decodePayload m other p = .event other e := fun other => by
      rw [← decodePayload_withSlot m slot other p, h]
      rfl
    have hsame := h.symm.trans (hslot slot)
    cases hsame
    exact ⟨rfl, hslot⟩
  · rw [decodePayload_singleton, surface_status, if_neg]
    exact fun h => (unknownStatus_eq_true_iff status).1 h hknown
  · rw [decodePayload_singleton, surface_status, if_pos ((unknownStatus_eq_true_iff status).2 hunknown)]
    exact ⟨rfl, rfl⟩
  · rw [h, surface_event]
    rintro status rfl
    exact hlen (decodePayload_status_length h)
  · rw [h, surface_decodeError]
    rfl
  · rw [h, surface_noEvent]
    rfl

/-! ### The events without text (R235 to R241) -/

theorem ofNat_beU16 (hi lo : Byte) : BitVec.ofNat 16 (beU16 hi lo) = hi ++ lo := by
  apply BitVec.eq_of_toNat_eq
  rw [BitVec.toNat_ofNat, BitVec.toNat_append, ← Nat.shiftLeft_add_eq_or_of_lt lo.isLt, beU16, Nat.shiftLeft_eq]
  omega

/-- Settles O52: each row's fields, by its length and its first byte. -/
theorem fixedLayoutEvents : Obligations.FixedLayoutEvents := by
  intro m slot b0 b1 b2 b3 b4 b5 b6 b7 b8 b9 b10 b11 b12 b13 b14 b15
  refine ⟨rfl, ?_, rfl, rfl, fun h => ?_, fun h => ?_, fun h => ?_⟩
  · have hbits : decodePayload m slot [b0, b1] =
        .event slot (.slots (bitIndices (BitVec.ofNat 16 (beU16 b0 b1)))) := rfl
    rw [hbits, ofNat_beU16]
    simp only [bitIndices, BitVec.getLsbD_append]
  · rw [decodePayload_eleven rfl, if_pos (by simpa using h)]
    rfl
  · have hcontrols : ¬ (b0 = 0x01 ∨ b0 = 0x80) := by
      rintro (rfl | rfl) <;> exact absurd h (by decide)
    rw [decodePayload_eleven rfl, if_neg hcontrols, if_pos (by simpa using h)]
    rfl
  · subst h
    rfl

end Sys2Proof.Machine

/-! ## Decode and encode agree (30_encoding.md), and the state at launch

Both round trips go through the row of a request: every request with a fitting name has an opcode and argument bytes
(`exists_encodeArgs`), which read back as the request (`decodeArgs_encodeArgs`); what is read is written with the opcode
and argument bytes it was read from (`decodeArgs_writtenAs`). -/

namespace Sys2Proof.Machine

open Sys2Proof.Claims

/-! ### Well-formed requests are read back from their frames -/

/-- Every request whose name fits its field has a row's opcode and argument bytes (R92). -/
theorem exists_encodeArgs {i : Instr} (hrequest : i.isRequest) (hfits : NameFits i) :
    ∃ opcode args, encodeArgs i = some (opcode, args) := by
  obtain ⟨-, opcode, args, hargs, -⟩ | ⟨newId, name, rfl⟩ := exec_request_cases hrequest
  · exact ⟨opcode, args, hargs⟩
  · exact ⟨_, _, encodeArgs_pairClient (hfits newId name rfl) newId⟩

/-- The number of argument bytes of every row fits the length byte (R87, R102). -/
theorem length_encodeArgs_lt {i : Instr} {opcode : Byte} {args : Bytes} (h : encodeArgs i = some (opcode, args)) :
    args.length < 256 := by
  have hlen := length_encodeArgs h
  split at hlen <;> omega

/-- Settles O8: the frame is made of the row's opcode and argument bytes (`encode_of_args`), which are read from it
(`decodeFrame_frameFields`) and stand for the request (`decodeArgs_encodeArgs`). -/
theorem decodeEncodeAgree : Obligations.DecodeEncodeAgree := by
  intro i dest check hrequest hwell hfits hname
  obtain ⟨opcode, args, hargs⟩ := exists_encodeArgs hrequest hfits
  refine ⟨_, encode_of_args hargs dest check, ?_⟩
  rw [decodeFrame_frameFields (length_encodeArgs_lt hargs)]
  exact decodeArgs_encodeArgs hargs (detailsSlotAdmitted_of_wellFormed hwell) hname dest

/-! ### What is read from bytes is written as those bytes -/

/-- Only requests have a row's opcode and argument bytes (R92, R101). -/
theorem isRequest_of_encodeArgs {i : Instr} {opcode : Byte} {args : Bytes} (h : encodeArgs i = some (opcode, args)) :
    i.isRequest := by
  cases i with
  | firstFragment | continuationFragment | setClientId | setClientSlot | rxReset => cases h
  | _ => rfl

theorem nameFits_of_encodeArgs {i : Instr} {opcode : Byte} {args : Bytes} (h : encodeArgs i = some (opcode, args)) :
    NameFits i := by
  rintro newId name rfl
  exact (encodeArgs_pairClient_some h).1

/-- A name is read without its padding (R94, log entry 8). -/
theorem decodePairing_nameUnpadded {dest : Byte} {args : Bytes} {i : Instr} (h : decodePairing dest args = .ok i) :
    i.nameUnpadded := by
  unfold decodePairing at h
  split at h
  · cases h; rfl
  · next name =>
    split_ifs at h
    cases h
    exact decide_eq_true (stripPad_idem name)
  · cases h

theorem decodeArgs_nameUnpadded {dest opcode : Byte} {args : Bytes} {i : Instr}
    (h : decodeArgs dest opcode args = .ok i) : i.nameUnpadded := by
  obtain ⟨⟨hargs, -⟩, -⟩ := decodeArgs_writtenAs h
  cases i with
  | pairClient newId name =>
    obtain ⟨-, rfl, -⟩ := encodeArgs_pairClient_some hargs
    exact decodePairing_nameUnpadded h
  | _ => rfl

/-- Settles O9: bytes that decode are fields and check bytes (`decodeFrame_ok`), and the fields are those that the
operation read from them is written with (`decodeArgs_writtenAs`). -/
theorem decodedBytesAreTheEncoding : Obligations.DecodedBytesAreTheEncoding := by
  intro f i h
  obtain ⟨dest, opcode, args, check, rfl, hread⟩ := decodeFrame_ok h
  obtain ⟨⟨hargs, -⟩, hdest⟩ := decodeArgs_writtenAs hread
  refine ⟨isRequest_of_encodeArgs hargs, decodeArgs_nameUnpadded hread, nameFits_of_encodeArgs hargs, dest, check, ?_⟩
  rw [encode_of_args hargs, hdest]

/-- Settles O7: each frame is read byte by byte. -/
theorem listedFramesDecode : Obligations.ListedFramesDecode :=
  ⟨rfl, rfl, rfl, rfl, rfl, rfl, rfl, rfl, rfl, rfl, rfl, rfl, rfl⟩

/-! ### The state at launch (R38, R301) -/

/-- At launch nothing is pending and no byte is held, so the invariant speaks of nothing. -/
theorem launch_inv (id : Option Word) (slot : Option Byte) : (State.launch id slot).Inv := by
  have hwf : (State.launch id slot).buf.wf := ⟨.nil, fun _ hc => absurd hc List.not_mem_nil⟩
  have habsent : (none : Option Byte).isSome ↔ (0 : Byte) ≠ 0 := by decide
  exact ⟨hwf, habsent, habsent, fun exp he => absurd he (Option.not_mem_none exp),
    fun a ha => absurd ha (Nat.not_lt_zero a)⟩

theorem launch_portsLegal (id : Option Word) (slot : Option Byte) : (State.launch id slot).PortsLegal :=
  fun _ ho => absurd ho List.not_mem_nil

/-- Settles O2: nothing is pending at launch (`launch_inv`) and nothing has been presented (`launch_portsLegal`). -/
theorem invariantHoldsAtReset : Obligations.InvariantHoldsAtReset :=
  fun id slot => ⟨launch_inv id slot, launch_portsLegal id slot⟩

end Sys2Proof.Machine
